-- ==== Sys2Proof/Word.lean ====
section
/-! DEFINITION. The byte, the only data width of the core (R15, R35), the register number, and the 8-bit wrap `u8` of spec/00_scope.md section 6. -/

namespace Sys2Proof

/-- An 8-bit value: a register, the pc, FL, an address, a memory byte (R6, R15, R20, R22, R31). -/
abbrev Byte := BitVec 8

/-- The number of a general register, 0..7 (R14). -/
abbrev RegIdx := Fin 8

/-- `u8(v) = v mod 256`, the 8-bit wrap (spec/00_scope.md section 6). -/
def u8 (v : Nat) : Byte := BitVec.ofNat 8 v

@[simp] theorem u8_toNat (v : Nat) : (u8 v).toNat = v % 256 := by simp [u8]

end Sys2Proof
end

