-- ==== Sys2Proof/Syntax.lean ====
section
/-! DEFINITION. The instruction set: one constructor per row of spec/opcode_table.json (R3, R52). -/

namespace Sys2Proof

/-- The 13 instructions with their operand bytes. A register operand is the WHOLE operand byte (R51): a byte greater than 7 names no register, and such an instruction is ill-formed (WellFormed.lean) and raises BAD_REGISTER when it runs (R62). -/
inductive Instr where
  /-- `HLT` (R69). -/
  | hlt
  /-- `LDI Ra, imm` (R70). -/
  | ldi (a imm : Byte)
  /-- `PRN Ra` (R71). -/
  | prn (a : Byte)
  /-- `MUL Ra, Rb` (R73). -/
  | mul (a b : Byte)
  /-- `POP Ra` (R78). -/
  | pop (a : Byte)
  /-- `PUSH Ra` (R77). -/
  | push (a : Byte)
  /-- `CALL Ra` (R79). -/
  | call (a : Byte)
  /-- `RET` (R80). -/
  | ret
  /-- `ADD Ra, Rb` (R74). -/
  | add (a b : Byte)
  /-- `JMP Ra` (R81). -/
  | jmp (a : Byte)
  /-- `JEQ Ra` (R82). -/
  | jeq (a : Byte)
  /-- `JNE Ra` (R83). -/
  | jne (a : Byte)
  /-- `CMP Ra, Rb` (R75). -/
  | cmp (a b : Byte)
  deriving DecidableEq, Repr

end Sys2Proof
end

