-- ==== Sys2Proof/WellFormed.lean ====
section
/-! DEFINITION. The check an instruction term must pass: every register operand names a register (R19, R51). -/

namespace Sys2Proof

/-- The byte is a legal register index, 0..7 (R19, R51). -/
def isRegister (b : Byte) : Bool := decide (b.toNat < 8)

/-- The register operands of an instruction, operand a before operand b (R52, R62). LDI's second operand is an immediate and is not among them. -/
def Instr.registerOperands : Instr → List Byte
  | .hlt => []
  | .ldi a _ => [a]
  | .prn a => [a]
  | .mul a b => [a, b]
  | .pop a => [a]
  | .push a => [a]
  | .call a => [a]
  | .ret => []
  | .add a b => [a, b]
  | .jmp a => [a]
  | .jeq a => [a]
  | .jne a => [a]
  | .cmp a b => [a, b]

/-- Every register operand is in 0..7. -/
def Instr.wf (i : Instr) : Bool := i.registerOperands.all isRegister

end Sys2Proof
end

