-- ==== Sys2Proof/Decode.lean ====
section
/-! DEFINITION. The opcode map (R52), instruction length (R48), the decoder, total on any bytes and rejecting by name, and after it the encoder. -/

namespace Sys2Proof

/-- Why bytes are not an instruction. -/
inductive Reject where
  /-- The opcode byte is not one of the 13 of R52 (R53). -/
  | illegalOpcode (op : Byte)
  /-- The opcode is recognized, and a list of bytes ends before the operand bytes it uses. Never raised by a fetch, which always reads three bytes (R58). -/
  | truncated (op : Byte)
  /-- A list of bytes holds no opcode byte. Never raised by a fetch. -/
  | empty
  deriving DecidableEq, Repr

/-- `operandCount(opcode) = opcode >> 6`, the field `op[7:6]` (R47, R48). -/
def operandCount (op : Byte) : Nat := op.toNat / 64

/-- `len = op[7:6] + 1`, from the opcode byte alone, recognized or not (R48, R54). -/
def instrLength (op : Byte) : Nat := operandCount op + 1

/-- The decoder on the three bytes of a fetch: a lookup of the WHOLE opcode byte in the static table (R47, R52, R59). An operand byte the instruction does not use is discarded (R45). No register check is made here: it is check 3 of the step (R62). -/
def decodeFetched (op a b : Byte) : Except Reject Instr :=
  match op with
  | 0b00000001 => .ok .hlt
  | 0b10011001 => .ok (.ldi a b)
  | 0b01000011 => .ok (.prn a)
  | 0b10101010 => .ok (.mul a b)
  | 0b01001100 => .ok (.pop a)
  | 0b01001101 => .ok (.push a)
  | 0b01001000 => .ok (.call a)
  | 0b00001001 => .ok .ret
  | 0b10101000 => .ok (.add a b)
  | 0b01010000 => .ok (.jmp a)
  | 0b01010001 => .ok (.jeq a)
  | 0b01010010 => .ok (.jne a)
  | 0b10100000 => .ok (.cmp a b)
  | _ => .error (.illegalOpcode op)

/-- The decoder on a list of bytes in address order (R35): the instruction at its head, and the bytes after it. -/
def decode : List Byte → Except Reject (Instr × List Byte)
  | [] => .error .empty
  | op :: rest =>
    match decodeFetched op (rest.getD 0 0) (rest.getD 1 0) with
    | .error r => .error r
    | .ok i =>
      if rest.length < operandCount op then .error (.truncated op)
      else .ok (i, rest.drop (operandCount op))

/-- The instruction the decoder reads from an instruction word numbered as spec/opcode_table.json numbers it: byte k of the instruction is bits 8k+7..8k, and every bit from `nbits` up is 0. -/
def decodeTableWord (nbits w : Nat) : Option Instr :=
  match decode [u8 (w % 2 ^ nbits), u8 (w % 2 ^ nbits / 256), u8 (w % 2 ^ nbits / 65536)] with
  | .ok (i, _) => some i
  | .error _ => none

/-! The encoder. -/

/-- The opcode byte, in the hexadecimal spelling of R52's table. -/
def Instr.opcode : Instr → Byte
  | .hlt => 0x01
  | .ldi _ _ => 0x99
  | .prn _ => 0x43
  | .mul _ _ => 0xAA
  | .pop _ => 0x4C
  | .push _ => 0x4D
  | .call _ => 0x48
  | .ret => 0x09
  | .add _ _ => 0xA8
  | .jmp _ => 0x50
  | .jeq _ => 0x51
  | .jne _ => 0x52
  | .cmp _ _ => 0xA0

/-- The operand bytes, a before b (R46, R49). -/
def Instr.operandBytes : Instr → List Byte
  | .hlt => []
  | .ldi a imm => [a, imm]
  | .prn a => [a]
  | .mul a b => [a, b]
  | .pop a => [a]
  | .push a => [a]
  | .call a => [a]
  | .ret => []
  | .add a b => [a, b]
  | .jmp a => [a]
  | .jeq a => [a]
  | .jne a => [a]
  | .cmp a b => [a, b]

/-- The bytes of an instruction in address order: opcode, then operand bytes (R46, R55). -/
def encode (i : Instr) : List Byte := i.opcode :: i.operandBytes

/-- The length of an instruction, from its opcode byte by R48 and not per instruction. -/
def Instr.length (i : Instr) : Nat := instrLength i.opcode

/-- A program in the byte-list form: the encodings in the order written (R55). -/
def assemble (p : List Instr) : List Byte := p.flatMap encode

/-! The assembly notation of R55 (D12). -/

/-- `R0`..`R7`; a byte greater than 7 names no register. -/
def registerName (b : Byte) : Option String :=
  if isRegister b then some ("R" ++ Nat.repr b.toNat) else none

/-- `MNEMONIC Ra`. -/
def lineOneRegister (m : String) (a : Byte) : Option String := (registerName a).map (fun ra => m ++ " " ++ ra)

/-- `MNEMONIC Ra, Rb`. -/
def lineTwoRegisters (m : String) (a b : Byte) : Option String :=
  match registerName a, registerName b with
  | some ra, some rb => some (m ++ " " ++ ra ++ ", " ++ rb)
  | _, _ => none

/-- The line an instruction is written as, the immediate in decimal; none for an ill-formed instruction (R55). -/
def Instr.assembly : Instr → Option String
  | .hlt => some "HLT"
  | .ldi a imm => (registerName a).map (fun ra => "LDI " ++ ra ++ ", " ++ Nat.repr imm.toNat)
  | .prn a => lineOneRegister "PRN" a
  | .mul a b => lineTwoRegisters "MUL" a b
  | .pop a => lineOneRegister "POP" a
  | .push a => lineOneRegister "PUSH" a
  | .call a => lineOneRegister "CALL" a
  | .ret => some "RET"
  | .add a b => lineTwoRegisters "ADD" a b
  | .jmp a => lineOneRegister "JMP" a
  | .jeq a => lineOneRegister "JEQ" a
  | .jne a => lineOneRegister "JNE" a
  | .cmp a b => lineTwoRegisters "CMP" a b

end Sys2Proof
end

