-- ==== Sys2Proof/Config.lean ====
section
/-! DEFINITION. The implementation parameters of R6 that have a value, and the one byte an unlisted address reads as. -/

namespace Sys2Proof

/-- SP_INDEX: the register slot that is SP (R6, R17, D2). The state carries the parameter (field `spIndex`), so that claims range over all eight slots; this is the value the machine is reset with. Log 1. -/
def Config.spIndex : RegIdx := 7

/-- PC_RESET (R6, R29, R98). -/
def Config.pcReset : Byte := 0x00

/-- SP_RESET (R6, R29). -/
def Config.spReset : Byte := 0xF4

/-- What an address that the memory does not list reads as. MEM_INIT is an open launch argument (R6, D24): every MEM_INIT is some memory of the model. DESIGN CHOICE (log 2), unsafe: the spec states no contents for a byte that nothing has placed. -/
def Config.memFill : Byte := 0x00

end Sys2Proof
end

