-- ==== Sys2Proof/Machine/State.lean ====
section
/-! DEFINITION. The state of the core as plain data (spec/10_state.md), its reasons to stop, and the state after reset. -/

namespace Sys2Proof.Machine

/-- `run_state` (R25). -/
inductive RunState where
  /-- The initial state; each step executes one instruction (R57). -/
  | running
  /-- Entered only by HLT (R66, R95). -/
  | halted
  /-- Entered only by fault entry (R86). -/
  | faulted
  deriving DecidableEq, Repr

/-- The fault causes of R85. A fault of the core is a transition into `RunState.faulted`, hence a NEXT state of the model (log 4). -/
inductive FaultCause where
  | illegalOpcode
  | fetchOverrun
  | badRegister
  | pcOverflow
  | stackOverflow
  | stackUnderflow
  deriving DecidableEq, Repr

/-- Memory as a list of (address, byte) pairs. Canonical form: Ops.lean, `Memory.wf`. -/
abbrev Memory := List Host.Cell

/-- All the state the spec gives the machine (R14 to R28), with the memory behind its port (R31), the record of its output port (R10, R102; log 3) and the parameter SP_INDEX (R6, R17; log 1). -/
structure State where
  /-- x[0]..x[7] (R14); SP is x[SP_INDEX] and has no storage of its own (R17). -/
  regs : Vector Byte 8
  /-- The program counter (R20). -/
  pc : Byte
  /-- The flags register (R22). -/
  fl : Byte
  /-- The run state (R25). -/
  runState : RunState
  /-- FAULT_CAUSE (R27). -/
  faultCause : Byte
  /-- FAULT_PC (R27). -/
  faultPc : Byte
  /-- FAULT_OPCODE (R27). -/
  faultOpcode : Byte
  /-- FAULT_INFO (R27). -/
  faultInfo : Byte
  /-- The bytes the memory port reaches (R31). -/
  mem : Memory
  /-- The values emitted since reset, oldest first (R10, R102). The model's own field: log 3. -/
  output : List Byte
  /-- SP_INDEX (R6, R17), a parameter of the machine: nothing ever writes it. The model's own field: log 1. -/
  spIndex : RegIdx
  deriving DecidableEq, Repr

/-- Reasons for the model to stop on a fault: NONE. Every fault of the spec is a state the machine enters (R86), no memory access fails (R33), and no behaviour is undefined (spec/93_implementation_defined.md section 1). So nothing raises one; safe. -/
inductive Fault where
  deriving DecidableEq, Repr

/-- Reasons for the model to refuse. -/
inductive Refusal where
  /-- Raised only by an arm of `exec` whose instruction has no meaning yet; no arm is such. Safe: nothing can be proved of what it would do. -/
  | notModelled (mnemonic : String)
  deriving DecidableEq, Repr

/-- What an instruction or a step answers. -/
abbrev Result := Host.Outcome State Fault Refusal

/-- The register file after reset: 0 everywhere but SP_RESET in slot SP_INDEX (R29). -/
def resetRegs (sp : RegIdx) : Vector Byte 8 := (Vector.replicate 8 0x00).set sp.val Config.spReset sp.isLt

/-- The machine right after reset (R29, R96), with SP_INDEX as R6 gives it and no memory byte placed yet (R97; log 2). -/
def State.reset : State where
  regs := resetRegs Config.spIndex
  pc := Config.pcReset
  fl := 0x00
  runState := .running
  faultCause := 0x00
  faultPc := 0x00
  faultOpcode := 0x00
  faultInfo := 0x00
  mem := []
  output := []
  spIndex := Config.spIndex

end Sys2Proof.Machine
end

