-- ==== Sys2Proof/Machine/Ops.lean ====
section
/-! DEFINITION. The shared operations: memory, registers, the stack pointer, fetch, the pc update, output, fault entry and the reset transaction. -/

namespace Sys2Proof.Machine

/-! ## Memory (spec/20_memory.md) -/

/-- The byte listed for an address, else `Config.memFill`. -/
def Memory.lookup : Memory → Nat → Byte
  | [], _ => Config.memFill
  | (a, v) :: m, k => if a = k then v else Memory.lookup m k

/-- `MemRead(addr, 1)` (R33): every 8-bit address answers a byte, and nothing changes. -/
def Memory.read (m : Memory) (addr : Byte) : Byte := Memory.lookup m addr.toNat

/-- Puts a cell in its place by address. -/
def Memory.insertCell (k : Nat) (v : Byte) : Memory → Memory
  | [] => [(k, v)]
  | (a, w) :: m => if k < a then (k, v) :: (a, w) :: m else (a, w) :: Memory.insertCell k v m

/-- The memory without the cell of an address. -/
def Memory.erase (m : Memory) (k : Nat) : Memory := m.filter (fun c => c.1 != k)

/-- `MemWrite(addr, 1, v)` (R34), keeping the canonical form: an address that holds `Config.memFill` is not listed. -/
def Memory.write (m : Memory) (addr : Byte) (v : Byte) : Memory :=
  if v = Config.memFill then Memory.erase m addr.toNat else Memory.insertCell addr.toNat v (Memory.erase m addr.toNat)

/-- The canonical form from an address up: addresses strictly rising and at most 0xFF (R31), no entry equal to `Config.memFill`. -/
def Memory.wfFrom : Nat → Memory → Bool
  | _, [] => true
  | lo, (a, v) :: m => decide (lo ≤ a) && decide (a < 256) && decide (v ≠ Config.memFill) && Memory.wfFrom (a + 1) m

/-- The canonical form of a memory. -/
def Memory.wf (m : Memory) : Bool := Memory.wfFrom 0 m

/-- `MemRead(addr, 1)` of the state's memory. -/
def State.load (s : State) (addr : Byte) : Byte := Memory.read s.mem addr

/-- `MemWrite(addr, 1, v)` of the state's memory. -/
def State.store (s : State) (addr v : Byte) : State := { s with mem := Memory.write s.mem addr v }

/-! ## Registers (spec/10_state.md) -/

/-- `x[i]` (R14); no register is hardwired. -/
def State.readReg (s : State) (i : RegIdx) : Byte := s.regs[i.val]

/-- `x[i] <- v` (R14, R15). -/
def State.writeReg (s : State) (i : RegIdx) (v : Byte) : State := { s with regs := s.regs.set i.val v i.isLt }

/-- `SP`, which is `x[SP_INDEX]` (R17). -/
def State.sp (s : State) : Byte := s.readReg s.spIndex

/-- `SP <- v`, which is `x[SP_INDEX] <- v` (R17). -/
def State.writeSp (s : State) (v : Byte) : State := s.writeReg s.spIndex v

/-! ## Fetch (R58) -/

/-- The byte fetched at `u8(pc + k)`, k = 0, 1, 2 (R45, R58). -/
def State.fetchByte (s : State) (k : Nat) : Byte := s.load (u8 (s.pc.toNat + k))

/-- The three bytes of the fetch at the pc, decoded (R58, R59). -/
def State.fetched (s : State) : Except Reject Instr := decodeFetched (s.fetchByte 0) (s.fetchByte 1) (s.fetchByte 2)

/-! ## Raising a fault (R86) -/

/-- What `raise F(info)` carries. -/
structure Raised where
  cause : FaultCause
  info : Byte
  deriving DecidableEq, Repr

/-- The cause codes of R85. -/
def FaultCause.code : FaultCause → Byte
  | .illegalOpcode => 1
  | .fetchOverrun => 2
  | .badRegister => 3
  | .pcOverflow => 4
  | .stackOverflow => 5
  | .stackUnderflow => 6

/-- Fault entry (R86): the fault record is written, the run state becomes FAULTED, and everything else stays. There is no return from it (R88). -/
def State.raise (s : State) (op : Byte) (f : Raised) : State :=
  { s with
    faultCause := f.cause.code
    faultPc := s.pc
    faultOpcode := op
    faultInfo := f.info
    runState := .faulted }

/-- Ends the execution of an instruction with opcode byte `op` that began in `s`: a raised fault is precise, because its entry starts again from `s` (R67, R86). -/
def finish (op : Byte) (s : State) : Except Raised State → Result
  | .error f => .next (s.raise op f)
  | .ok t => .next t

/-- Check 1 of a step failed: the fetched opcode byte is not recognized (R53, R60). -/
def raiseIllegalOpcode (s : State) : Result := finish (s.fetchByte 0) s (.error ⟨.illegalOpcode, 0⟩)

/-- A step outside RUNNING: no access, no output, no change (R56). -/
def stayStopped (s : State) : Result := .next s

/-! ## Checks 2 and 4 (R61, R63) -/

/-- Check 2: the bytes the instruction uses lie at addresses up to 0xFF, else FETCH_OVERRUN (R61). -/
def fetchInside (len : Nat) (s : State) : Except Raised Unit :=
  if s.pc.toNat + len > 256 then .error ⟨.fetchOverrun, u8 len⟩ else .ok ()

/-- Check 4, made for an instruction that needs its successor: the address `pc + len` exists, else PC_OVERFLOW (R63). -/
def successorExists (len : Nat) (s : State) : Except Raised Unit :=
  if s.pc.toNat + len > 255 then .error ⟨.pcOverflow, u8 len⟩ else .ok ()

/-! ## The pc update (R65) -/

/-- The handler returned `Continue`: `pc <- pc + len`. After check 4 the sum is at most 255, so that `u8` changes nothing; for HLT it is R69's `u8(pc + 1)`. -/
def State.fallThrough (s : State) (len : Nat) : State := { s with pc := u8 (s.pc.toNat + len) }

/-- The handler returned `Jump(t)`: `pc <- t`. -/
def State.jumpTo (s : State) (t : Byte) : State := { s with pc := t }

/-! ## The stack pointer's two moves (spec/43_stack.md) -/

/-- `if SP = 0: raise StackOverflow(0)`, else `SP <- SP - 1` (R77, R79). -/
def decrementSp (s : State) : Except Raised State :=
  if s.sp.toNat = 0 then .error ⟨.stackOverflow, 0⟩ else .ok (s.writeSp (u8 (s.sp.toNat - 1)))

/-- `if SP = 255: raise StackUnderflow(255)`, else `SP <- SP + 1` (R78, R80). -/
def incrementSp (s : State) : Except Raised State :=
  if s.sp.toNat = 255 then .error ⟨.stackUnderflow, 255⟩ else .ok (s.writeSp (u8 (s.sp.toNat + 1)))

/-! ## Output and the run state -/

/-- `emit(v)` on the output port (R10, R12). -/
def State.emit (s : State) (v : Byte) : State := { s with output := s.output ++ [v] }

/-- `run_state <- HALTED` (R66). -/
def State.halt (s : State) : State := { s with runState := .halted }

/-! ## The reset transaction (spec/70_reset_and_hazards.md) -/

/-- `reset()`, accepted in every run state: all core state as R29 gives it; memory is neither read nor written (R96, R97), the parameter SP_INDEX stays, and the record of emitted values starts anew (log 3, log 11). -/
def State.afterReset (s : State) : State :=
  { State.reset with
    regs := resetRegs s.spIndex
    mem := s.mem
    spIndex := s.spIndex }

end Sys2Proof.Machine
end

