-- ==== Sys2Proof/Machine/Flags.lean ====
section
/-! DEFINITION. The flags register FL: its bits (R22) and the comparison that writes all of it (R75, R76). -/

namespace Sys2Proof.Machine

/-- `FL.EQF`, bit 0 (R22): read by JEQ and JNE. -/
def eqf (fl : Byte) : Bool := fl.getLsbD 0

/-- `FL.GTF`, bit 1 (R22): read by no instruction. -/
def gtf (fl : Byte) : Bool := fl.getLsbD 1

/-- `FL.LTF`, bit 2 (R22): read by no instruction. -/
def ltf (fl : Byte) : Bool := fl.getLsbD 2

/-- The value CMP writes to FL: from 0, bit 0 for equal, bit 1 for greater, bit 2 for less, all unsigned (R75). -/
def compareFlags (va vb : Byte) : Byte :=
  (if va.toNat = vb.toNat then 0b001 else 0) ||| (if va.toNat > vb.toNat then 0b010 else 0) |||
    (if va.toNat < vb.toNat then 0b100 else 0)

/-- `FL <- f`, all 8 bits (R23). -/
def State.writeFl (s : State) (f : Byte) : State := { s with fl := f }

end Sys2Proof.Machine
end

