-- ==== Sys2Proof/Machine/Operands.lean ====
section
/-! DEFINITION. The one operand form that is checked: a register index, the whole operand byte (R49, R51). The other form, LDI's immediate, is the byte unchanged (R50). -/

namespace Sys2Proof.Machine

/-- Check 3 for one operand byte: the register it names, or BAD_REGISTER with the offending byte; never masked to 3 bits (R19, R51, R62). -/
def registerOperand (b : Byte) : Except Raised RegIdx :=
  if h : b.toNat < 8 then .ok ⟨b.toNat, h⟩ else .error ⟨.badRegister, b⟩

end Sys2Proof.Machine
end

