-- ==== Sys2Proof/Machine/Alu.lean ====
section
/-! DEFINITION. The ALU (R72) and MUL, ADD, CMP (spec/42_alu.md). -/

namespace Sys2Proof.Machine

/-- The operation tags of the ALU: exactly these two (R72). -/
inductive AluOp where
  | add
  | mul
  deriving DecidableEq, Repr

/-- `ALU(op, a, b)`: exact arithmetic on the unsigned values, then the 8-bit wrap (R72). -/
def alu : AluOp → Byte → Byte → Byte
  | .add, a, b => u8 (a.toNat + b.toNat)
  | .mul, a, b => u8 (a.toNat * b.toNat)

/-- What an instruction with two register operands does around its handler `h` (R61 to R65). -/
def execTwoRegisters (i : Instr) (a b : Byte) (h : RegIdx → RegIdx → State → State) (s : State) : Result :=
  finish i.opcode s do
    fetchInside i.length s
    let ra ← registerOperand a
    let rb ← registerOperand b
    successorExists i.length s
    return (h ra rb s).fallThrough i.length

/-- `x[a] <- ALU(op, x[a], x[b])`, both operands read before the write (R73, R74). -/
def aluHandler (op : AluOp) (ra rb : RegIdx) (s : State) : State :=
  s.writeReg ra (alu op (s.readReg ra) (s.readReg rb))

/-- MUL regA, regB (R73). -/
def execMul (a b : Byte) (s : State) : Result := execTwoRegisters (.mul a b) a b (aluHandler .mul) s

/-- ADD regA, regB (R74). -/
def execAdd (a b : Byte) (s : State) : Result := execTwoRegisters (.add a b) a b (aluHandler .add) s

/-- CMP's handler: FL from the two register values alone (R75, R76). -/
def compareHandler (ra rb : RegIdx) (s : State) : State :=
  s.writeFl (compareFlags (s.readReg ra) (s.readReg rb))

/-- CMP regA, regB (R75). -/
def execCmp (a b : Byte) (s : State) : Result := execTwoRegisters (.cmp a b) a b compareHandler s

end Sys2Proof.Machine
end

