-- ==== Sys2Proof/Machine/ControlData.lean ====
section
/-! DEFINITION. HLT, LDI and PRN (spec/41_control_and_data.md). Each meaning makes the checks of R61 to R63 in their order, then does what its handler does, then updates the pc (R65). -/

namespace Sys2Proof.Machine

/-- HLT (R69): `pc <- u8(pc + 1)`, then HALTED (R66); it never needs its successor (R63). -/
def execHlt (s : State) : Result :=
  finish Instr.hlt.opcode s do
    fetchInside Instr.hlt.length s
    return (s.fallThrough Instr.hlt.length).halt

/-- LDI regA, imm (R70). -/
def execLdi (a imm : Byte) (s : State) : Result :=
  finish (Instr.ldi a imm).opcode s do
    fetchInside (Instr.ldi a imm).length s
    let ra ← registerOperand a
    successorExists (Instr.ldi a imm).length s
    return (s.writeReg ra imm).fallThrough (Instr.ldi a imm).length

/-- PRN regA (R71). -/
def execPrn (a : Byte) (s : State) : Result :=
  finish (Instr.prn a).opcode s do
    fetchInside (Instr.prn a).length s
    let ra ← registerOperand a
    successorExists (Instr.prn a).length s
    return (s.emit (s.readReg ra)).fallThrough (Instr.prn a).length

end Sys2Proof.Machine
end

