-- ==== Sys2Proof/Machine/Stack.lean ====
section
/-! DEFINITION. PUSH and POP (spec/43_stack.md), in the literal order of their statements (D18). -/

namespace Sys2Proof.Machine

/-- PUSH regA (R77): SP is decremented first, and x[a] is read after that. -/
def execPush (a : Byte) (s : State) : Result :=
  finish (Instr.push a).opcode s do
    fetchInside (Instr.push a).length s
    let ra ← registerOperand a
    successorExists (Instr.push a).length s
    let t ← decrementSp s
    return (t.store t.sp (t.readReg ra)).fallThrough (Instr.push a).length

/-- POP regA (R78): x[a] is written first, and SP is read for its increment after that; when a names SP the increment applies to the popped byte. -/
def execPop (a : Byte) (s : State) : Result :=
  finish (Instr.pop a).opcode s do
    fetchInside (Instr.pop a).length s
    let ra ← registerOperand a
    successorExists (Instr.pop a).length s
    let t ← incrementSp (s.writeReg ra (s.load s.sp))
    return t.fallThrough (Instr.pop a).length

end Sys2Proof.Machine
end

