-- ==== Sys2Proof/Machine/Transfer.lean ====
section
/-! DEFINITION. CALL, RET, JMP, JEQ and JNE (spec/44_control_transfer.md): the control redirector, register-indirect but for RET (R84). -/

namespace Sys2Proof.Machine

/-- CALL regA (R79): the return address `pc + 2` is pushed, and the target x[a] is read after SP is decremented (D18). -/
def execCall (a : Byte) (s : State) : Result :=
  finish (Instr.call a).opcode s do
    fetchInside (Instr.call a).length s
    let ra ← registerOperand a
    successorExists (Instr.call a).length s
    let t ← decrementSp s
    return (t.store t.sp (u8 (s.pc.toNat + 2))).jumpTo (t.readReg ra)

/-- RET (R80). -/
def execRet (s : State) : Result :=
  finish Instr.ret.opcode s do
    fetchInside Instr.ret.length s
    let t ← incrementSp s
    return t.jumpTo (s.load s.sp)

/-- JMP regA (R81): it never needs its successor (R63). -/
def execJmp (a : Byte) (s : State) : Result :=
  finish (Instr.jmp a).opcode s do
    fetchInside (Instr.jmp a).length s
    let ra ← registerOperand a
    return s.jumpTo (s.readReg ra)

/-- A conditional jump of the instruction `i`: the register operand is checked whether or not the jump is taken (R62), and the successor is needed only when it is not (R63). -/
def execBranch (i : Instr) (a : Byte) (taken : Bool) (s : State) : Result :=
  finish i.opcode s do
    fetchInside i.length s
    let ra ← registerOperand a
    if taken then
      return s.jumpTo (s.readReg ra)
    else
      successorExists i.length s
      return s.fallThrough i.length

/-- JEQ regA (R82): taken when FL.EQF = 1. -/
def execJeq (a : Byte) (s : State) : Result := execBranch (.jeq a) a (eqf s.fl) s

/-- JNE regA (R83): taken when FL.EQF = 0. -/
def execJne (a : Byte) (s : State) : Result := execBranch (.jne a) a (!eqf s.fl) s

end Sys2Proof.Machine
end

