-- ==== Sys2Proof/Machine/Step.lean ====
section
/-! DEFINITION. One `step()` (R56 to R68), and how an instruction is laid where the next step fetches it. -/

namespace Sys2Proof.Machine

/-- One `step()`: nothing outside RUNNING (R56); else the three fetched bytes are decoded (R58, R59), an unrecognized opcode raises ILLEGAL_OPCODE (R60), and a recognized instruction runs to completion or to a fault (R57, R64). -/
def step (s : State) : Host.Outcome State Fault Refusal :=
  match s.runState with
  | .running =>
    match s.fetched with
    | .ok i => exec i s
    | .error _ => raiseIllegalOpcode s
  | .halted => stayStopped s
  | .faulted => stayStopped s

/-- The state with the instruction word `w` (numbered as spec/opcode_table.json numbers it, its bits from `nbits` up zero) stored at the three addresses the next step fetches, and RUNNING, so that the next step fetches at all. The load that R97 and R99 leave to the host: log 5. -/
def State.withFetchWord (s : State) (nbits w : Nat) : State :=
  let v := w % 2 ^ nbits
  let put (k b : Nat) (t : State) : State := t.store (u8 (s.pc.toNat + k)) (u8 b)
  { put 2 (v / 65536) (put 1 (v / 256) (put 0 v s)) with runState := .running }

end Sys2Proof.Machine
end

