-- ==== Sys2Proof/Machine/Port.lean ====
section
/-! DEFINITION. The transactions of the block interface: what a step does on the memory port and the output port, in order (R9, R10, R32, R37). They change nothing beyond what the state already shows; they are the step seen from outside the core. -/

namespace Sys2Proof.Machine

/-- One transaction of the core (R9, R10). -/
inductive PortEvent where
  /-- `MemRead(addr, 1)`. -/
  | memRead (addr : Byte)
  /-- `MemWrite(addr, 1, v)`. -/
  | memWrite (addr v : Byte)
  /-- `emit(v)`. -/
  | emit (v : Byte)
  deriving DecidableEq, Repr

/-- The three fetch reads, unconditional (R45, R58). -/
def fetchEvents (s : State) : List PortEvent :=
  [.memRead s.pc, .memRead (u8 (s.pc.toNat + 1)), .memRead (u8 (s.pc.toNat + 2))]

/-- The transactions of the handler that led from `s` to `t` without a fault (R32, R71). -/
def handlerEvents : Instr → State → State → List PortEvent
  | .push _, _, t => [.memWrite t.sp (t.load t.sp)]
  | .call _, _, t => [.memWrite t.sp (t.load t.sp)]
  | .pop _, s, _ => [.memRead s.sp]
  | .ret, s, _ => [.memRead s.sp]
  | .prn _, s, t => (t.output.drop s.output.length).map .emit
  | .hlt, _, _ => []
  | .ldi _ _, _, _ => []
  | .mul _ _, _, _ => []
  | .add _ _, _, _ => []
  | .jmp _, _, _ => []
  | .jeq _, _, _ => []
  | .jne _, _, _ => []
  | .cmp _ _, _, _ => []

/-- The transactions before a fault: none (R67, R86), but for a POP that raises STACK_UNDERFLOW, whose handler reads memory at SP before its check (R78). -/
def faultEvents : Instr → State → State → List PortEvent
  | .pop _, s, t => if t.faultCause = FaultCause.code .stackUnderflow then [.memRead s.sp] else []
  | _, _, _ => []

/-- The transactions of an instruction after its fetch. -/
def instrEvents (i : Instr) (s : State) : List PortEvent :=
  match exec i { s with runState := .running } with
  | .next t => if t.runState = .faulted then faultEvents i s t else handlerEvents i s t
  | .fault _ => []
  | .refused _ => []

/-- The transactions of one step, in order: none outside RUNNING (R56), else the fetch reads and then those of the instruction, of which there are none for an unrecognized opcode (R37, R60). -/
def stepEvents (s : State) : List PortEvent :=
  match s.runState with
  | .running =>
    fetchEvents s ++
      match s.fetched with
      | .ok i => instrEvents i s
      | .error _ => []
  | .halted => []
  | .faulted => []

/-- What the ports' other side sees of one transaction: a write sets a byte (R34), a read changes nothing (R33), an output is recorded. -/
def applyEvent (s : State) : PortEvent → State
  | .memRead _ => s
  | .memWrite addr v => s.store addr v
  | .emit v => s.emit v

end Sys2Proof.Machine
end

