-- ==== Sys2Proof/Machine/Transaction.lean ====
section
/-! DEFINITION. The host's side: the core's two control transactions (R7), the placing of a program before a run (R97, R99) and the driver that steps a run to its end (R101, R102). -/

namespace Sys2Proof.Machine

/-- Exactly two control transactions (R7); they never overlap (R8). -/
inductive Transaction where
  /-- `reset()` (R96). -/
  | reset
  /-- `step()` (R68). -/
  | step
  deriving DecidableEq, Repr

/-- The effect of one transaction. -/
def transact : Transaction → State → Result
  | .reset, s => .next s.afterReset
  | .step, s => Machine.step s

/-- A sequence of transactions, the first one first. -/
def transactAll : List Transaction → State → Result
  | [], s => .next s
  | x :: xs, s =>
    match transact x s with
    | .next t => transactAll xs t
    | .fault f => .fault f
    | .refused r => .refused r

/-- Bytes placed at consecutive addresses from `k` up. -/
def State.placeBytes : Nat → List Byte → State → State
  | _, [], s => s
  | k, b :: bs, s => State.placeBytes (k + 1) bs (s.store (u8 k) b)

/-- What the host does before the first step, in R99's order: the program's bytes at 0x00, then `reset()`. -/
def State.boot (program : List Byte) (s : State) : State := (State.placeBytes 0 program s).afterReset

/-- A run has ended: HALTED or FAULTED (R102). -/
def State.ended (s : State) : Bool := decide (s.runState ≠ .running)

/-- The host's driver, at most `n` steps: it stops calling `step()` when the run state leaves RUNNING (R101). -/
def drive : Nat → State → Result
  | 0, s => .next s
  | n + 1, s =>
    if s.ended then .next s
    else
      match Machine.step s with
      | .next t => drive n t
      | .fault f => .fault f
      | .refused r => .refused r

end Sys2Proof.Machine
end

