-- ==== Sys2Proof/Safety.lean ====
section
/-! DEFINITION. The terms claims use: fault entry and fault priority written from R85 to R87 apart from the meanings, the reset values, which registers an instruction reads and writes, frames, and the invariant of the machine. -/

namespace Sys2Proof.Machine

/-! ## Fault entry and the order of the checks -/

/-- R86 as written: `FAULT_CAUSE <- code`, `FAULT_PC <- pc`, `FAULT_OPCODE <- op`, `FAULT_INFO <- info`, `run_state <- FAULTED`, and every other field as it was. -/
def State.faultedWith (s : State) (code op info : Byte) : State :=
  { s with runState := .faulted, faultCause := code, faultPc := s.pc, faultOpcode := op, faultInfo := info }

/-- `needs_successor(op, FL)` (R63). -/
def needsSuccessor : Instr → Byte → Bool
  | .hlt, _ => false
  | .ldi _ _, _ => true
  | .prn _, _ => true
  | .mul _ _, _ => true
  | .pop _, _ => true
  | .push _, _ => true
  | .call _, _ => true
  | .ret, _ => false
  | .add _ _, _ => true
  | .jmp _, _ => false
  | .jeq _, fl => fl.toNat % 2 == 0
  | .jne _, fl => fl.toNat % 2 == 1
  | .cmp _ _, _ => true

/-- The handler's own check, with its code and FAULT_INFO (rows 5 and 6 of R85; R77 to R80). -/
def stackFault : Instr → State → Option (Byte × Byte)
  | .push _, s => if s.sp.toNat = 0 then some (5, 0) else none
  | .call _, s => if s.sp.toNat = 0 then some (5, 0) else none
  | .pop a, s =>
    let incremented := if a.toNat = s.spIndex.val then s.load s.sp else s.sp
    if incremented.toNat = 255 then some (6, 255) else none
  | .ret, s => if s.sp.toNat = 255 then some (6, 255) else none
  | .hlt, _ => none
  | .ldi _ _, _ => none
  | .prn _, _ => none
  | .mul _ _, _ => none
  | .add _ _, _ => none
  | .jmp _, _ => none
  | .jeq _, _ => none
  | .jne _, _ => none
  | .cmp _ _, _ => none

/-- The fault a recognized instruction raises in a state, with its code and FAULT_INFO: the first of R87's order after ILLEGAL_OPCODE, or none. -/
def instrFault (i : Instr) (s : State) : Option (Byte × Byte) :=
  if s.pc.toNat + (encode i).length > 256 then some (2, u8 (encode i).length)
  else
    match i.registerOperands.find? (fun b => !isRegister b) with
    | some b => some (3, b)
    | none =>
      if needsSuccessor i s.fl && decide (s.pc.toNat + (encode i).length > 255) then some (4, u8 (encode i).length)
      else stackFault i s

/-- The fault a step of a RUNNING machine raises: ILLEGAL_OPCODE first (R87), else the instruction's. -/
def stepFault (s : State) : Option (Byte × Byte) :=
  match s.fetched with
  | .error _ => some (1, 0)
  | .ok i => instrFault i s

/-! ## Reset -/

/-- The values of R29's table, for whatever SP_INDEX the machine has. -/
def State.HasResetValues (s : State) : Prop :=
  (∀ i, i ≠ s.spIndex → s.readReg i = 0x00) ∧ s.sp = 0xF4 ∧ s.pc = 0x00 ∧ s.fl = 0x00 ∧ s.runState = .running ∧
    s.faultCause = 0x00 ∧ s.faultPc = 0x00 ∧ s.faultOpcode = 0x00 ∧ s.faultInfo = 0x00

/-! ## The registers of R16's table -/

/-- The register an operand byte names, if it names one. -/
def namedRegister (b : Byte) : List RegIdx := if h : b.toNat < 8 then [⟨b.toNat, h⟩] else []

/-- The column "registers read" of R16's table. -/
def registersRead : Instr → State → List RegIdx
  | .hlt, _ => []
  | .ldi _ _, _ => []
  | .prn a, _ => namedRegister a
  | .mul a b, _ => namedRegister a ++ namedRegister b
  | .add a b, _ => namedRegister a ++ namedRegister b
  | .push a, s => s.spIndex :: namedRegister a
  | .pop _, s => [s.spIndex]
  | .call a, s => s.spIndex :: namedRegister a
  | .ret, s => [s.spIndex]
  | .cmp a b, _ => namedRegister a ++ namedRegister b
  | .jmp a, _ => namedRegister a
  | .jeq a, s => if s.fl.toNat % 2 = 1 then namedRegister a else []
  | .jne a, s => if s.fl.toNat % 2 = 0 then namedRegister a else []

/-- The column "registers written" of R16's table. -/
def registersWritten : Instr → State → List RegIdx
  | .hlt, _ => []
  | .ldi a _, _ => namedRegister a
  | .prn _, _ => []
  | .mul a _, _ => namedRegister a
  | .add a _, _ => namedRegister a
  | .push _, s => [s.spIndex]
  | .pop a, s => s.spIndex :: namedRegister a
  | .call _, s => [s.spIndex]
  | .ret, s => [s.spIndex]
  | .cmp _ _, _ => []
  | .jmp _, _ => []
  | .jeq _, _ => []
  | .jne _, _ => []

/-! ## Frames -/

/-- Every register but those listed reads as before. -/
def SameRegsBut (rs : List RegIdx) (s t : State) : Prop := ∀ r, r ∉ rs → t.readReg r = s.readReg r

/-- Every byte of memory reads as before. -/
def SameMem (s t : State) : Prop := ∀ adr, t.load adr = s.load adr

/-- Every byte of memory but the one at an address reads as before. -/
def SameMemBut (a : Byte) (s t : State) : Prop := ∀ adr, adr ≠ a → t.load adr = s.load adr

/-- The fault record, and the parameter SP_INDEX, are as before. -/
def SameRecord (s t : State) : Prop :=
  t.faultCause = s.faultCause ∧ t.faultPc = s.faultPc ∧ t.faultOpcode = s.faultOpcode ∧ t.faultInfo = s.faultInfo ∧
    t.spIndex = s.spIndex

/-- The fault record, the parameter SP_INDEX and the run state are as before. -/
def SameStatus (s t : State) : Prop := t.runState = s.runState ∧ SameRecord s t

/-! ## The invariant -/

/-- The fault record says why the machine stands FAULTED: its pc and opcode are the ones in the machine, and the step the machine cannot take raises the recorded fault (R27, R85, R86, R87). -/
def State.FaultExplained (s : State) : Prop :=
  s.faultPc = s.pc ∧ s.faultOpcode = s.load s.pc ∧ stepFault s = some (s.faultCause, s.faultInfo)

/-- The invariant of the machine. -/
structure State.Inv (s : State) : Prop where
  /-- Memory keeps its canonical form (log 2). -/
  memCanonical : Memory.wf s.mem = true
  /-- At most one of EQF, GTF, LTF is 1, and bits 7:3 are 0 (R22, R23, R24). -/
  flagsLegal : s.fl = 0x00 ∨ s.fl = 0x01 ∨ s.fl = 0x02 ∨ s.fl = 0x04
  /-- No fault since reset: the fault record is all zero (R27, R29, R85). -/
  recordClear : s.runState ≠ .faulted →
    s.faultCause = 0x00 ∧ s.faultPc = 0x00 ∧ s.faultOpcode = 0x00 ∧ s.faultInfo = 0x00
  /-- FAULTED: the fault record explains it. -/
  faultExplained : s.runState = .faulted → s.FaultExplained

end Sys2Proof.Machine
end

