-- ==== Sys2Proof/Certificates/Slice0/Obligations.lean ====
section
/-! DEFINITION. The statements for the provers, from the numbered rules of spec/. "Stated" and "derived" are said in OBLIGATIONS.json. SP_INDEX is never fixed: it is the state's parameter (R17; log 1). The check order (D9), the fault codes and record (D8), FETCH_OVERRUN and PC_OVERFLOW (D6), the stack checks (D7) and BAD_REGISTER (D11) stand in the numbered rules as the spec's own decisions, which the model follows (log 9). -/

open Sys2Proof Sys2Proof.Machine

/-! ## Encoding -/

/-- For ALL instructions, with every operand byte at every value: the decoder reads exactly what the encoder writes, whatever bytes follow, and reads nothing else so (R46, R49, R51, R52). -/
def Obligations.DecodeIsInverseOfEncode : Prop :=
  ∀ (i : Instr) (bytes rest : List Byte), decode bytes = .ok (i, rest) ↔ bytes = encode i ++ rest

/-- R48, R54: the length is `op[7:6] + 1`, from the opcode byte alone; it is 1, 2 or 3, because no recognized opcode has bits 7:6 = 0b11 (R46). -/
def Obligations.LengthComesFromOpcodeBits : Prop :=
  (∀ i : Instr, ∃ op operands, encode i = op :: operands ∧ operands.length = op.toNat / 64 ∧ operands.length ≤ 2 ∧
    i.length = op.toNat / 64 + 1) ∧
  ∀ op a b : Byte, op.toNat / 64 = 3 → decodeFetched op a b = .error (.illegalOpcode op)

/-- Words written out from R52's table decode to what they stand for; the neighbours of legal opcodes of vector V-DEC-8 do not. -/
def Obligations.SampleWordsDecode : Prop :=
  decodeTableWord 8 0b00000001 = some .hlt ∧
  decodeTableWord 24 0b110010000000000010011001 = some (.ldi 0 200) ∧
  decodeTableWord 16 0b0000001001010001 = some (.jeq 2) ∧
  decodeTableWord 24 0b000000010000000010101010 = some (.mul 0 1) ∧
  decodeTableWord 16 0b0000011101001101 = some (.push 7) ∧
  decodeTableWord 8 0x02 = none ∧ decodeTableWord 24 0xAB = none

/-- R45: an operand byte beyond the instruction's operand count is discarded. -/
def Obligations.UnusedOperandBytesAreIgnored : Prop :=
  ∀ op a b a' b' : Byte,
    (op.toNat / 64 = 0 → decodeFetched op a b = decodeFetched op a' b') ∧
    (op.toNat / 64 = 1 → decodeFetched op a b = decodeFetched op a b')

/-! ## The step -/

/-- R57 to R59, R64: where the three bytes at pc, u8(pc+1), u8(pc+2) decode to an instruction, a step of a RUNNING machine is `exec` of that instruction in that state, and nothing is added around it. -/
def Obligations.StepRunsDecodedInstruction : Prop :=
  ∀ (s : State) (i : Instr) (rest : List Byte), s.runState = .running →
    decode [s.load s.pc, s.load (u8 (s.pc.toNat + 1)), s.load (u8 (s.pc.toNat + 2))] = .ok (i, rest) →
    step s = exec i s

/-- R60 (check 1), R53: an opcode byte that is not one of the 13 raises ILLEGAL_OPCODE with FAULT_INFO 0, whatever the pc and the other bytes; each of the 13 is recognized. -/
def Obligations.UnrecognizedOpcodeFaults : Prop :=
  ∀ (s : State), s.runState = .running →
    (s.load s.pc ∉ ([0x01, 0x99, 0x43, 0xAA, 0x4C, 0x4D, 0x48, 0x09, 0xA8, 0x50, 0x51, 0x52, 0xA0] : List Byte) →
      step s = .next (s.faultedWith 1 (s.load s.pc) 0)) ∧
    (s.load s.pc ∈ ([0x01, 0x99, 0x43, 0xAA, 0x4C, 0x4D, 0x48, 0x09, 0xA8, 0x50, 0x51, 0x52, 0xA0] : List Byte) →
      ∃ i : Instr, i.opcode = s.load s.pc ∧ step s = exec i s)

/-- R87, R86 (with R60 to R63, R77 to R80): a step of a RUNNING machine raises the first fault of the priority order (the spec's decision D9; log 9), entering it as R86 says with the opcode byte fetched at pc, and raises none where the order finds none. -/
def Obligations.StepRaisesFirstFaultInPriorityOrder : Prop :=
  ∀ s : State, s.runState = .running →
    (∀ code info, stepFault s = some (code, info) → step s = .next (s.faultedWith code (s.load s.pc) info)) ∧
    (stepFault s = none → ∃ t, step s = .next t ∧ t.runState ≠ .faulted ∧ SameRecord s t)

/-- R67: a fault is precise. Every register, FL, pc, every memory byte and the output are as before the step, and FAULT_PC is pc. -/
def Obligations.FaultsArePrecise : Prop :=
  ∀ s t : State, s.runState = .running → step s = .next t → t.runState = .faulted →
    SameRegsBut [] s t ∧ t.fl = s.fl ∧ t.pc = s.pc ∧ SameMem s t ∧ t.output = s.output ∧ t.spIndex = s.spIndex ∧
    t.faultPc = s.pc

/-- No step of any state stops the model: every fault of the spec is a state entered (R86), and no behaviour is undefined (log 4). -/
def Obligations.EveryStepHasANextState : Prop := ∀ s : State, ∃ t, step s = .next t

/-- R56: a step outside RUNNING changes nothing, and makes no memory access and no output. -/
def Obligations.StoppedStepChangesNothing : Prop :=
  ∀ s : State, s.runState = .halted ∨ s.runState = .faulted → step s = .next s ∧ stepEvents s = []

/-- R26, R88, R95: no sequence of steps moves a HALTED or FAULTED machine, so the fault record keeps the first fault; `reset()` makes it RUNNING. -/
def Obligations.OnlyResetLeavesAStoppedState : Prop :=
  ∀ (s : State) (xs : List Transaction), s.runState ≠ .running →
    (Transaction.reset ∉ xs → transactAll xs s = .next s) ∧
    (∃ t, transact .reset s = .next t ∧ t.runState = .running)

/-- R29: what `reset()` leaves, from every state; the memory reads as before (R97). `State.reset` has the same values. The clause `t.spIndex = s.spIndex`, that the parameter SP_INDEX stays, is the model's choice (log 1, log 11) and no part of R29. The fault record's zeros and the untouched memory are rows of R29's table that rest on the spec's decisions D8 and D21 (log 9). -/
def Obligations.ResetLeavesTheSpecifiedValues : Prop :=
  State.reset.HasResetValues ∧
  ∀ s : State, ∃ t, transact .reset s = .next t ∧ t.HasResetValues ∧ SameMem s t ∧ t.spIndex = s.spIndex

/-! ## One rule per instruction: encoding, faults in their order, effect and frame -/

/-- R69, HLT. It never faults; at pc = 255 the advance gives 0 (the spec's decision D17; log 9). -/
def Obligations.HltAdvancesAndHalts : Prop :=
  ∀ s : State, encode .hlt = [0x01] ∧
    ∃ t, exec .hlt s = .next t ∧ t.pc.toNat = (s.pc.toNat + 1) % 256 ∧ t.runState = .halted ∧
      SameRegsBut [] s t ∧ t.fl = s.fl ∧ SameMem s t ∧ t.output = s.output ∧ SameRecord s t

/-- R70, LDI. The immediate is never checked; naming SP_INDEX loads SP. -/
def Obligations.LdiLoadsImmediate : Prop :=
  ∀ (a imm : Byte) (s : State), encode (.ldi a imm) = [0x99, a, imm] ∧
    (s.pc.toNat ≥ 254 → exec (.ldi a imm) s = .next (s.faultedWith 2 0x99 3)) ∧
    (s.pc.toNat ≤ 253 → a.toNat > 7 → exec (.ldi a imm) s = .next (s.faultedWith 3 0x99 a)) ∧
    (s.pc.toNat = 253 → a.toNat ≤ 7 → exec (.ldi a imm) s = .next (s.faultedWith 4 0x99 3)) ∧
    (∀ ra : RegIdx, a.toNat = ra.val → s.pc.toNat ≤ 252 →
      ∃ t, exec (.ldi a imm) s = .next t ∧ t.pc.toNat = s.pc.toNat + 3 ∧ t.readReg ra = imm ∧ (ra = s.spIndex → t.sp = imm) ∧
        SameRegsBut [ra] s t ∧ t.fl = s.fl ∧ SameMem s t ∧ t.output = s.output ∧ SameStatus s t)

/-- R71, PRN. Exactly one value is emitted, the register's; a faulting PRN emits nothing. -/
def Obligations.PrnEmitsRegister : Prop :=
  ∀ (a : Byte) (s : State), encode (.prn a) = [0x43, a] ∧
    (s.pc.toNat = 255 → exec (.prn a) s = .next (s.faultedWith 2 0x43 2)) ∧
    (s.pc.toNat ≤ 254 → a.toNat > 7 → exec (.prn a) s = .next (s.faultedWith 3 0x43 a)) ∧
    (s.pc.toNat = 254 → a.toNat ≤ 7 → exec (.prn a) s = .next (s.faultedWith 4 0x43 2)) ∧
    (∀ ra : RegIdx, a.toNat = ra.val → s.pc.toNat ≤ 253 →
      ∃ t, exec (.prn a) s = .next t ∧ t.pc.toNat = s.pc.toNat + 2 ∧ t.output = s.output ++ [s.readReg ra] ∧
        SameRegsBut [] s t ∧ t.fl = s.fl ∧ SameMem s t ∧ SameStatus s t)

/-- R73, MUL: the low 8 bits of the product; both operands are read before the write. -/
def Obligations.MulMultipliesModulo256 : Prop :=
  ∀ (a b : Byte) (s : State), encode (.mul a b) = [0xAA, a, b] ∧
    (s.pc.toNat ≥ 254 → exec (.mul a b) s = .next (s.faultedWith 2 0xAA 3)) ∧
    (s.pc.toNat ≤ 253 → a.toNat > 7 → exec (.mul a b) s = .next (s.faultedWith 3 0xAA a)) ∧
    (s.pc.toNat ≤ 253 → a.toNat ≤ 7 → b.toNat > 7 → exec (.mul a b) s = .next (s.faultedWith 3 0xAA b)) ∧
    (s.pc.toNat = 253 → a.toNat ≤ 7 → b.toNat ≤ 7 → exec (.mul a b) s = .next (s.faultedWith 4 0xAA 3)) ∧
    (∀ ra rb : RegIdx, a.toNat = ra.val → b.toNat = rb.val → s.pc.toNat ≤ 252 →
      ∃ t, exec (.mul a b) s = .next t ∧ t.pc.toNat = s.pc.toNat + 3 ∧
        (t.readReg ra).toNat = (s.readReg ra).toNat * (s.readReg rb).toNat % 256 ∧
        SameRegsBut [ra] s t ∧ t.fl = s.fl ∧ SameMem s t ∧ t.output = s.output ∧ SameStatus s t)

/-- R74, ADD: the sum modulo 256, no flag written. -/
def Obligations.AddAddsModulo256 : Prop :=
  ∀ (a b : Byte) (s : State), encode (.add a b) = [0xA8, a, b] ∧
    (s.pc.toNat ≥ 254 → exec (.add a b) s = .next (s.faultedWith 2 0xA8 3)) ∧
    (s.pc.toNat ≤ 253 → a.toNat > 7 → exec (.add a b) s = .next (s.faultedWith 3 0xA8 a)) ∧
    (s.pc.toNat ≤ 253 → a.toNat ≤ 7 → b.toNat > 7 → exec (.add a b) s = .next (s.faultedWith 3 0xA8 b)) ∧
    (s.pc.toNat = 253 → a.toNat ≤ 7 → b.toNat ≤ 7 → exec (.add a b) s = .next (s.faultedWith 4 0xA8 3)) ∧
    (∀ ra rb : RegIdx, a.toNat = ra.val → b.toNat = rb.val → s.pc.toNat ≤ 252 →
      ∃ t, exec (.add a b) s = .next t ∧ t.pc.toNat = s.pc.toNat + 3 ∧
        (t.readReg ra).toNat = ((s.readReg ra).toNat + (s.readReg rb).toNat) % 256 ∧
        SameRegsBut [ra] s t ∧ t.fl = s.fl ∧ SameMem s t ∧ t.output = s.output ∧ SameStatus s t)

/-- R75, CMP: all of FL is written, 1 for equal, 2 for greater, 4 for less (unsigned), whatever FL was. -/
def Obligations.CmpWritesFlags : Prop :=
  ∀ (a b : Byte) (s : State), encode (.cmp a b) = [0xA0, a, b] ∧
    (s.pc.toNat ≥ 254 → exec (.cmp a b) s = .next (s.faultedWith 2 0xA0 3)) ∧
    (s.pc.toNat ≤ 253 → a.toNat > 7 → exec (.cmp a b) s = .next (s.faultedWith 3 0xA0 a)) ∧
    (s.pc.toNat ≤ 253 → a.toNat ≤ 7 → b.toNat > 7 → exec (.cmp a b) s = .next (s.faultedWith 3 0xA0 b)) ∧
    (s.pc.toNat = 253 → a.toNat ≤ 7 → b.toNat ≤ 7 → exec (.cmp a b) s = .next (s.faultedWith 4 0xA0 3)) ∧
    (∀ ra rb : RegIdx, a.toNat = ra.val → b.toNat = rb.val → s.pc.toNat ≤ 252 →
      ∃ t, exec (.cmp a b) s = .next t ∧ t.pc.toNat = s.pc.toNat + 3 ∧
        ((s.readReg ra).toNat = (s.readReg rb).toNat → t.fl = 0x01) ∧
        ((s.readReg ra).toNat > (s.readReg rb).toNat → t.fl = 0x02) ∧
        ((s.readReg ra).toNat < (s.readReg rb).toNat → t.fl = 0x04) ∧
        SameRegsBut [] s t ∧ SameMem s t ∧ t.output = s.output ∧ SameStatus s t)

/-- R77, PUSH. SP is decremented, then x[a] is read and written at the new SP; the last clause is the spec's decision D18 for a = SP_INDEX, which stores the decremented SP (log 9). -/
def Obligations.PushStoresBelowTheStackTop : Prop :=
  ∀ (a : Byte) (s : State), encode (.push a) = [0x4D, a] ∧
    (s.pc.toNat = 255 → exec (.push a) s = .next (s.faultedWith 2 0x4D 2)) ∧
    (s.pc.toNat ≤ 254 → a.toNat > 7 → exec (.push a) s = .next (s.faultedWith 3 0x4D a)) ∧
    (s.pc.toNat = 254 → a.toNat ≤ 7 → exec (.push a) s = .next (s.faultedWith 4 0x4D 2)) ∧
    (s.pc.toNat ≤ 253 → a.toNat ≤ 7 → s.sp.toNat = 0 → exec (.push a) s = .next (s.faultedWith 5 0x4D 0)) ∧
    (∀ ra : RegIdx, a.toNat = ra.val → s.pc.toNat ≤ 253 → s.sp.toNat > 0 →
      ∃ t, exec (.push a) s = .next t ∧ t.pc.toNat = s.pc.toNat + 2 ∧ t.sp.toNat = s.sp.toNat - 1 ∧
        SameMemBut (u8 (s.sp.toNat - 1)) s t ∧
        (ra ≠ s.spIndex → t.load (u8 (s.sp.toNat - 1)) = s.readReg ra) ∧
        (ra = s.spIndex → (t.load (u8 (s.sp.toNat - 1))).toNat = s.sp.toNat - 1) ∧
        SameRegsBut [s.spIndex] s t ∧ t.fl = s.fl ∧ t.output = s.output ∧ SameStatus s t)

/-- R78, POP. x[a] takes the byte at SP, then SP is incremented; for a = SP_INDEX (the spec's decision D18; log 9) SP ends as that byte plus 1, and the underflow check is on that byte. -/
def Obligations.PopLoadsFromTheStackTop : Prop :=
  ∀ (a : Byte) (s : State), encode (.pop a) = [0x4C, a] ∧
    (s.pc.toNat = 255 → exec (.pop a) s = .next (s.faultedWith 2 0x4C 2)) ∧
    (s.pc.toNat ≤ 254 → a.toNat > 7 → exec (.pop a) s = .next (s.faultedWith 3 0x4C a)) ∧
    (s.pc.toNat = 254 → a.toNat ≤ 7 → exec (.pop a) s = .next (s.faultedWith 4 0x4C 2)) ∧
    (∀ ra : RegIdx, a.toNat = ra.val → s.pc.toNat ≤ 253 → ra ≠ s.spIndex →
      (s.sp.toNat = 255 → exec (.pop a) s = .next (s.faultedWith 6 0x4C 255)) ∧
      (s.sp.toNat < 255 →
        ∃ t, exec (.pop a) s = .next t ∧ t.pc.toNat = s.pc.toNat + 2 ∧ t.readReg ra = s.load s.sp ∧
          t.sp.toNat = s.sp.toNat + 1 ∧
          SameRegsBut [ra, s.spIndex] s t ∧ t.fl = s.fl ∧ SameMem s t ∧ t.output = s.output ∧ SameStatus s t)) ∧
    (a.toNat = s.spIndex.val → s.pc.toNat ≤ 253 →
      ((s.load s.sp).toNat = 255 → exec (.pop a) s = .next (s.faultedWith 6 0x4C 255)) ∧
      ((s.load s.sp).toNat < 255 →
        ∃ t, exec (.pop a) s = .next t ∧ t.pc.toNat = s.pc.toNat + 2 ∧ t.sp.toNat = (s.load s.sp).toNat + 1 ∧
          SameRegsBut [s.spIndex] s t ∧ t.fl = s.fl ∧ SameMem s t ∧ t.output = s.output ∧ SameStatus s t))

/-- R79, CALL. The return address pc + 2 is stored at the decremented SP and pc takes x[a]; for a = SP_INDEX (the spec's decision D18) the target is the decremented SP (log 9). -/
def Obligations.CallPushesReturnAddress : Prop :=
  ∀ (a : Byte) (s : State), encode (.call a) = [0x48, a] ∧
    (s.pc.toNat = 255 → exec (.call a) s = .next (s.faultedWith 2 0x48 2)) ∧
    (s.pc.toNat ≤ 254 → a.toNat > 7 → exec (.call a) s = .next (s.faultedWith 3 0x48 a)) ∧
    (s.pc.toNat = 254 → a.toNat ≤ 7 → exec (.call a) s = .next (s.faultedWith 4 0x48 2)) ∧
    (s.pc.toNat ≤ 253 → a.toNat ≤ 7 → s.sp.toNat = 0 → exec (.call a) s = .next (s.faultedWith 5 0x48 0)) ∧
    (∀ ra : RegIdx, a.toNat = ra.val → s.pc.toNat ≤ 253 → s.sp.toNat > 0 →
      ∃ t, exec (.call a) s = .next t ∧ t.sp.toNat = s.sp.toNat - 1 ∧
        (t.load (u8 (s.sp.toNat - 1))).toNat = s.pc.toNat + 2 ∧ SameMemBut (u8 (s.sp.toNat - 1)) s t ∧
        (ra ≠ s.spIndex → t.pc = s.readReg ra) ∧ (ra = s.spIndex → t.pc.toNat = s.sp.toNat - 1) ∧
        SameRegsBut [s.spIndex] s t ∧ t.fl = s.fl ∧ t.output = s.output ∧ SameStatus s t)

/-- R80, RET. Its only fault is STACK_UNDERFLOW. -/
def Obligations.RetPopsTheReturnAddress : Prop :=
  ∀ s : State, encode .ret = [0x09] ∧
    (s.sp.toNat = 255 → exec .ret s = .next (s.faultedWith 6 0x09 255)) ∧
    (s.sp.toNat < 255 →
      ∃ t, exec .ret s = .next t ∧ t.pc = s.load s.sp ∧ t.sp.toNat = s.sp.toNat + 1 ∧
        SameRegsBut [s.spIndex] s t ∧ t.fl = s.fl ∧ SameMem s t ∧ t.output = s.output ∧ SameStatus s t)

/-- R81, JMP. It never raises PC_OVERFLOW. -/
def Obligations.JmpSetsPc : Prop :=
  ∀ (a : Byte) (s : State), encode (.jmp a) = [0x50, a] ∧
    (s.pc.toNat = 255 → exec (.jmp a) s = .next (s.faultedWith 2 0x50 2)) ∧
    (s.pc.toNat ≤ 254 → a.toNat > 7 → exec (.jmp a) s = .next (s.faultedWith 3 0x50 a)) ∧
    (∀ ra : RegIdx, a.toNat = ra.val → s.pc.toNat ≤ 254 →
      ∃ t, exec (.jmp a) s = .next t ∧ t.pc = s.readReg ra ∧
        SameRegsBut [] s t ∧ t.fl = s.fl ∧ SameMem s t ∧ t.output = s.output ∧ SameStatus s t)

/-- R82, JEQ. Bit 0 of FL alone decides; the register operand is checked taken or not. -/
def Obligations.JeqJumpsWhenEqual : Prop :=
  ∀ (a : Byte) (s : State), encode (.jeq a) = [0x51, a] ∧
    (s.pc.toNat = 255 → exec (.jeq a) s = .next (s.faultedWith 2 0x51 2)) ∧
    (s.pc.toNat ≤ 254 → a.toNat > 7 → exec (.jeq a) s = .next (s.faultedWith 3 0x51 a)) ∧
    (s.pc.toNat = 254 → a.toNat ≤ 7 → s.fl.toNat % 2 = 0 → exec (.jeq a) s = .next (s.faultedWith 4 0x51 2)) ∧
    (∀ ra : RegIdx, a.toNat = ra.val → s.pc.toNat ≤ 254 → s.fl.toNat % 2 = 1 →
      ∃ t, exec (.jeq a) s = .next t ∧ t.pc = s.readReg ra ∧
        SameRegsBut [] s t ∧ t.fl = s.fl ∧ SameMem s t ∧ t.output = s.output ∧ SameStatus s t) ∧
    (a.toNat ≤ 7 → s.pc.toNat ≤ 253 → s.fl.toNat % 2 = 0 →
      ∃ t, exec (.jeq a) s = .next t ∧ t.pc.toNat = s.pc.toNat + 2 ∧
        SameRegsBut [] s t ∧ t.fl = s.fl ∧ SameMem s t ∧ t.output = s.output ∧ SameStatus s t)

/-- R83, JNE. Bit 0 of FL alone decides; the register operand is checked taken or not. -/
def Obligations.JneJumpsWhenNotEqual : Prop :=
  ∀ (a : Byte) (s : State), encode (.jne a) = [0x52, a] ∧
    (s.pc.toNat = 255 → exec (.jne a) s = .next (s.faultedWith 2 0x52 2)) ∧
    (s.pc.toNat ≤ 254 → a.toNat > 7 → exec (.jne a) s = .next (s.faultedWith 3 0x52 a)) ∧
    (s.pc.toNat = 254 → a.toNat ≤ 7 → s.fl.toNat % 2 = 1 → exec (.jne a) s = .next (s.faultedWith 4 0x52 2)) ∧
    (∀ ra : RegIdx, a.toNat = ra.val → s.pc.toNat ≤ 254 → s.fl.toNat % 2 = 0 →
      ∃ t, exec (.jne a) s = .next t ∧ t.pc = s.readReg ra ∧
        SameRegsBut [] s t ∧ t.fl = s.fl ∧ SameMem s t ∧ t.output = s.output ∧ SameStatus s t) ∧
    (a.toNat ≤ 7 → s.pc.toNat ≤ 253 → s.fl.toNat % 2 = 1 →
      ∃ t, exec (.jne a) s = .next t ∧ t.pc.toNat = s.pc.toNat + 2 ∧
        SameRegsBut [] s t ∧ t.fl = s.fl ∧ SameMem s t ∧ t.output = s.output ∧ SameStatus s t)

/-! ## The ALU and the flags -/

/-- R72: the two operations, exact and then reduced modulo 256. -/
def Obligations.AluWrapsModulo256 : Prop :=
  (∀ a b : Byte, (alu .add a b).toNat = (a.toNat + b.toNat) % 256 ∧ (alu .mul a b).toNat = a.toNat * b.toNat % 256) ∧
  ∀ op : AluOp, op = .add ∨ op = .mul

/-- R76: after each completed CMP exactly one of EQF, GTF, LTF is set, and FL is a function of the two register values alone: two states that agree on them agree on FL after it. -/
def Obligations.CmpSetsExactlyOneFlag : Prop :=
  ∀ (ra rb : RegIdx) (s s' : State), s.pc.toNat ≤ 252 → s'.pc.toNat ≤ 252 →
    s.readReg ra = s'.readReg ra → s.readReg rb = s'.readReg rb →
    ∃ t t', exec (.cmp (u8 ra.val) (u8 rb.val)) s = .next t ∧ exec (.cmp (u8 ra.val) (u8 rb.val)) s' = .next t' ∧
      t.fl = t'.fl ∧
      ((eqf t.fl = true ∧ gtf t.fl = false ∧ ltf t.fl = false ∧ t.fl = 0x01 ∧ s.readReg ra = s.readReg rb) ∨
       (eqf t.fl = false ∧ gtf t.fl = true ∧ ltf t.fl = false ∧ t.fl = 0x02 ∧ (s.readReg ra).toNat > (s.readReg rb).toNat) ∨
       (eqf t.fl = false ∧ gtf t.fl = false ∧ ltf t.fl = true ∧ t.fl = 0x04 ∧ (s.readReg ra).toNat < (s.readReg rb).toNat))

/-- R23: FL is written only by CMP; a completed CMP writes all 8 bits, whatever FL held; and bits 7:3, once 0, stay 0 whatever runs. -/
def Obligations.OnlyCmpWritesFl : Prop :=
  ∀ (i : Instr) (s t : State), exec i s = .next t →
    ((∀ a b, i ≠ .cmp a b) → t.fl = s.fl) ∧
    (∀ a b, i = .cmp a b → instrFault i s = none → t.fl = 0x01 ∨ t.fl = 0x02 ∨ t.fl = 0x04) ∧
    (s.fl.toNat < 8 → t.fl.toNat < 8)

/-! ## Whole-machine rules over all instructions -/

/-- R32, R34, R37: an instruction changes at most the byte at SP - 1, and only PUSH and CALL change one. -/
def Obligations.OnlyPushAndCallWriteMemory : Prop :=
  ∀ (i : Instr) (s t : State) (adr : Byte), exec i s = .next t → t.load adr ≠ s.load adr →
    (∃ a, i = .push a ∨ i = .call a) ∧ adr.toNat + 1 = s.sp.toNat

/-- R16: the table lists every register an instruction can reach. An instruction changes ONLY registers listed as written; and ONLY registers listed as read have influence: one that is not listed has no influence on anything but itself: with another value in it, the instruction leaves the same pc, FL, run state, fault record, memory, output and other registers. -/
def Obligations.RegistersAreReachedAsTabulated : Prop :=
  (∀ (i : Instr) (s t : State), exec i s = .next t → SameRegsBut (registersWritten i s) s t) ∧
  (∀ (i : Instr) (s : State) (r : RegIdx) (v : Byte), r ∉ registersRead i s →
    ∃ t t', exec i s = .next t ∧ exec i (s.writeReg r v) = .next t' ∧ SameRegsBut [r] t t' ∧
      t'.pc = t.pc ∧ t'.fl = t.fl ∧ SameMem t t' ∧ t'.output = t.output ∧ SameStatus t t')

/-- R10, R12: only PRN emits, exactly one value, that of its register. -/
def Obligations.OnlyPrnEmits : Prop :=
  ∀ (i : Instr) (s t : State), exec i s = .next t →
    t.output = s.output ∨ ∃ (a : Byte) (ra : RegIdx), i = .prn a ∧ a.toNat = ra.val ∧ t.output = s.output ++ [s.readReg ra]

/-- R66: HLT that does not fault halts with the pc advanced (it never faults), and no other instruction changes the run state except by a fault. -/
def Obligations.RunStateChangesOnlyByHltOrFault : Prop :=
  ∀ (i : Instr) (s : State), ∃ t, exec i s = .next t ∧
    (instrFault i s ≠ none → t.runState = .faulted) ∧
    (instrFault i s = none → i = .hlt → t.runState = .halted ∧ t.pc = u8 (s.pc.toNat + 1)) ∧
    (instrFault i s = none → i ≠ .hlt → t.runState = s.runState) ∧
    instrFault .hlt s = none

/-- R21, R63, R65: an instruction that completes without redirecting leaves pc at the exact sum pc + len, never wrapped, but for HLT, which alone may wrap. -/
def Obligations.FallThroughNeverWraps : Prop :=
  ∀ (i : Instr) (s t : State), exec i s = .next t → instrFault i s = none →
    i ≠ .ret → (∀ a, i ≠ .call a) → (∀ a, i ≠ .jmp a) →
    (∀ a, i = .jeq a → s.fl.toNat % 2 = 0) → (∀ a, i = .jne a → s.fl.toNat % 2 = 1) →
    (i = .hlt → t.pc.toNat = (s.pc.toNat + 1) % 256) ∧
    (i ≠ .hlt → t.pc.toNat = s.pc.toNat + (encode i).length)

/-- R17, R18: SP is a normal register. LDI, MUL and ADD that name SP_INDEX change SP, and no check guards it. -/
def Obligations.SpIsANormalRegister : Prop :=
  ∀ (b imm : Byte) (rb : RegIdx) (s : State), b.toNat = rb.val → s.pc.toNat ≤ 252 →
    (∃ t, exec (.ldi (u8 s.spIndex.val) imm) s = .next t ∧ t.sp = imm) ∧
    (∃ t, exec (.mul (u8 s.spIndex.val) b) s = .next t ∧ t.sp.toNat = s.sp.toNat * (s.readReg rb).toNat % 256) ∧
    (∃ t, exec (.add (u8 s.spIndex.val) b) s = .next t ∧ t.sp.toNat = (s.sp.toNat + (s.readReg rb).toNat) % 256)

/-! ## Memory -/

/-- R40, R34: after any sequence of writes, a read answers the latest write to its address, else what memory held before. -/
def Obligations.ReadsAnswerTheLatestWrite : Prop :=
  ∀ (writes : List (Byte × Byte)) (s : State) (adr : Byte),
    (writes.foldl (fun u w => u.store w.1 w.2) s).load adr =
      ((writes.reverse.find? (fun w => w.1 = adr)).map (fun w => w.2)).getD (s.load adr)

/-- The model's own canonical form (log 2): memories in it that read alike at every address are equal data. -/
def Obligations.MemoriesThatReadAlikeAreEqual : Prop :=
  ∀ m m' : Memory, Memory.wf m = true → Memory.wf m' = true → (∀ adr, Memory.read m adr = Memory.read m' adr) → m = m'

/-- R43: the byte a completed PUSH stores is what a fetch of its address sees from then on, wherever the pc stands (self-modifying code; the spec's decision D10, log 9). Stated for a register other than SP. -/
def Obligations.FetchSeesPushedByte : Prop :=
  ∀ (a : Byte) (ra : RegIdx) (s : State), a.toNat = ra.val → ra ≠ s.spIndex → s.pc.toNat ≤ 253 → s.sp.toNat > 0 →
    ∃ t, exec (.push a) s = .next t ∧
      ∀ (u : State) (k : Nat), u.mem = t.mem → (u.pc.toNat + k) % 256 = s.sp.toNat - 1 → u.fetchByte k = s.readReg ra

/-! ## The ports -/

/-- R37, R56, R58: a step of a RUNNING machine makes the three fetch reads in order and then at most one data access or output; outside RUNNING it makes no transaction. -/
def Obligations.StepTransactionsInOrder : Prop :=
  ∀ s : State,
    (s.runState ≠ .running → stepEvents s = []) ∧
    (s.runState = .running → ∃ rest,
      stepEvents s = [.memRead s.pc, .memRead (u8 (s.pc.toNat + 1)), .memRead (u8 (s.pc.toNat + 2))] ++ rest ∧
      rest.length ≤ 1)

/-- R32: after the fetch, POP and RET read at SP, PUSH writes its register at SP - 1 (the decremented SP when it names SP: the spec's decision D18, log 9), CALL writes pc + 2 there, PRN emits, and no other instruction makes a transaction. A fault makes none, a RET that underflows included (R80 checks before it reads), but for a POP that underflows, which makes its read at SP (R78 reads before it checks; log 7). -/
def Obligations.InstructionTransactionsAsTabulated : Prop :=
  ∀ (i : Instr) (s : State),
    (instrFault i s = none →
      (∀ a, i = .pop a → instrEvents i s = [.memRead s.sp]) ∧
      (i = .ret → instrEvents i s = [.memRead s.sp]) ∧
      (∀ (a : Byte) (ra : RegIdx), i = .push a → a.toNat = ra.val →
        (ra ≠ s.spIndex → instrEvents i s = [.memWrite (u8 (s.sp.toNat - 1)) (s.readReg ra)]) ∧
        (ra = s.spIndex → instrEvents i s = [.memWrite (u8 (s.sp.toNat - 1)) (u8 (s.sp.toNat - 1))])) ∧
      (∀ a, i = .call a → instrEvents i s = [.memWrite (u8 (s.sp.toNat - 1)) (u8 (s.pc.toNat + 2))]) ∧
      (∀ (a : Byte) (ra : RegIdx), i = .prn a → a.toNat = ra.val → instrEvents i s = [.emit (s.readReg ra)])) ∧
    ((∀ a, i ≠ .pop a) → i ≠ .ret → (∀ a, i ≠ .push a) → (∀ a, i ≠ .call a) → (∀ a, i ≠ .prn a) → instrEvents i s = []) ∧
    (∀ c f, instrFault i s = some (c, f) →
      (∀ a, i = .pop a → c = 6 → instrEvents i s = [.memRead s.sp]) ∧
      (∀ a, i = .pop a → c ≠ 6 → instrEvents i s = []) ∧
      ((∀ a, i ≠ .pop a) → instrEvents i s = []))

/-- R9, R10, R34, R38: the memory and the output after a step are what the step's transactions make of them, applied in order to the state before it. -/
def Obligations.TransactionsAccountForMemoryAndOutput : Prop :=
  ∀ s t : State, step s = .next t →
    SameMem ((stepEvents s).foldl applyEvent s) t ∧ t.output = ((stepEvents s).foldl applyEvent s).output

/-- R32, R40, R45: a step depends on memory only at the addresses its transactions read. Two states that differ in memory only, and agree at those addresses, step to states that differ in memory only, where every byte is either its own old one in each, or the same in both. -/
def Obligations.StepDependsOnlyOnBytesItReads : Prop :=
  ∀ (s : State) (m : Memory) (t : State),
    (∀ adr, PortEvent.memRead adr ∈ stepEvents s → s.load adr = Memory.read m adr) → step s = .next t →
    ∃ t', step { s with mem := m } = .next t' ∧ { t' with mem := t.mem } = t ∧
      ∀ adr, (t.load adr = s.load adr ∧ t'.load adr = Memory.read m adr) ∨ t'.load adr = t.load adr

/-! ## Two instructions in sequence -/

/-- S3, R77, R78: PUSH Ra then POP Ra restores every register, for a register other than SP. -/
def Obligations.PopAfterPushRestoresRegisters : Prop :=
  ∀ (a : Byte) (ra : RegIdx) (s : State), a.toNat = ra.val → ra ≠ s.spIndex → s.pc.toNat ≤ 251 → s.sp.toNat > 0 →
    ∃ t u, exec (.push a) s = .next t ∧ exec (.pop a) t = .next u ∧
      SameRegsBut [] s u ∧ u.sp = s.sp ∧ u.pc.toNat = s.pc.toNat + 4

/-- S4, R79, R80: a RET run in any state that has the SP and the top of stack that the CALL left returns to the CALL's pc + 2 and restores SP. -/
def Obligations.RetAfterCallReturns : Prop :=
  ∀ (a : Byte) (s : State), a.toNat ≤ 7 → s.pc.toNat ≤ 253 → s.sp.toNat > 0 →
    ∃ t, exec (.call a) s = .next t ∧
      ∀ u : State, u.sp = t.sp → u.load u.sp = t.load t.sp →
        ∃ v, exec .ret u = .next v ∧ v.pc.toNat = s.pc.toNat + 2 ∧ v.sp = s.sp

/-- R103: a JMP to its own address keeps the machine RUNNING for ever, in the same state after every number of steps. -/
def Obligations.JmpToItselfNeverEnds : Prop :=
  ∀ (s : State) (ra : RegIdx) (n : Nat), s.runState = .running → s.pc.toNat ≤ 254 →
    s.load s.pc = 0x50 → (s.load (u8 (s.pc.toNat + 1))).toNat = ra.val → s.readReg ra = s.pc →
    Host.Core.run core n s = .next s

/-- R55, R97 to R99, R58: after the host has placed an assembled program at 0x00 and reset the core, a step at the address of any of its instructions, with the program's bytes still in memory, runs that instruction; and the first step runs the first one. -/
def Obligations.BootedProgramRunsAsAssembled : Prop :=
  ∀ (before after : List Instr) (i : Instr) (s : State), (assemble (before ++ i :: after)).length ≤ 256 →
    (∀ u : State, u.mem = (s.boot (assemble (before ++ i :: after))).mem → u.runState = .running →
      u.pc = u8 (assemble before).length → step u = exec i u) ∧
    (before = [] → step (s.boot (assemble (i :: after))) = exec i (s.boot (assemble (i :: after))))

/-- R7, R101: the driver that stops calling `step()` once the run has ended, and the bare loop of steps, lead to the same state after every number of steps. -/
def Obligations.DriverEqualsBareLoop : Prop :=
  ∀ (n : Nat) (s : State), drive n s = Host.Core.run core n s

/-- R102, R95, R56: once the machine, after some number of steps, stands outside RUNNING, it stands in the same state after every larger number: a run has one end. -/
def Obligations.RunHasOneEnd : Prop :=
  ∀ (n k : Nat) (s t : State), Host.Core.run core n s = .next t → t.runState ≠ .running →
    Host.Core.run core (n + k) s = .next t

/-! ## The invariant -/

/-- Every step from every state with the invariant leads to a state with it: memory canonical, FL legal (R22 to R24), the fault record zero outside FAULTED (R27, R29) and, in FAULTED, naming the pc, the opcode and the fault that the stopped step raises (R85 to R87). -/
def Obligations.StepKeepsInvariant : Prop :=
  ∀ s t : State, s.Inv → step s = .next t → t.Inv

/-- The invariant holds after reset, and after `reset()` from every state whose memory is canonical. -/
def Obligations.ResetHasInvariant : Prop :=
  State.reset.Inv ∧ ∀ s t : State, Memory.wf s.mem = true → transact .reset s = .next t → t.Inv

/-- Every sequence of transactions, from any state with the invariant, ends in a state with it, and no transaction changes the parameter SP_INDEX. -/
def Obligations.TransactionsKeepInvariant : Prop :=
  ∀ (xs : List Transaction) (s : State), s.Inv → ∃ t, transactAll xs s = .next t ∧ t.Inv ∧ t.spIndex = s.spIndex
end

