-- ==== Sys2Proof/Laws/State.lean ====
section
/-! SUPPORT. One lemma per field per update of the state, and the reads of registers and memory after an update. -/

namespace Sys2Proof.Machine

/-! ### `x[i] <- v` (R14) -/

@[simp] theorem State.writeReg_regs (s : State) (i : RegIdx) (v : Byte) : (s.writeReg i v).regs = s.regs.set i.val v i.isLt := rfl
@[simp] theorem State.writeReg_pc (s : State) (i : RegIdx) (v : Byte) : (s.writeReg i v).pc = s.pc := rfl
@[simp] theorem State.writeReg_fl (s : State) (i : RegIdx) (v : Byte) : (s.writeReg i v).fl = s.fl := rfl
@[simp] theorem State.writeReg_runState (s : State) (i : RegIdx) (v : Byte) : (s.writeReg i v).runState = s.runState := rfl
@[simp] theorem State.writeReg_faultCause (s : State) (i : RegIdx) (v : Byte) : (s.writeReg i v).faultCause = s.faultCause := rfl
@[simp] theorem State.writeReg_faultPc (s : State) (i : RegIdx) (v : Byte) : (s.writeReg i v).faultPc = s.faultPc := rfl
@[simp] theorem State.writeReg_faultOpcode (s : State) (i : RegIdx) (v : Byte) : (s.writeReg i v).faultOpcode = s.faultOpcode := rfl
@[simp] theorem State.writeReg_faultInfo (s : State) (i : RegIdx) (v : Byte) : (s.writeReg i v).faultInfo = s.faultInfo := rfl
@[simp] theorem State.writeReg_mem (s : State) (i : RegIdx) (v : Byte) : (s.writeReg i v).mem = s.mem := rfl
@[simp] theorem State.writeReg_output (s : State) (i : RegIdx) (v : Byte) : (s.writeReg i v).output = s.output := rfl
@[simp] theorem State.writeReg_spIndex (s : State) (i : RegIdx) (v : Byte) : (s.writeReg i v).spIndex = s.spIndex := rfl

/-! ### `SP <- v` (R17) -/

@[simp] theorem State.writeSp_regs (s : State) (v : Byte) : (s.writeSp v).regs = s.regs.set s.spIndex.val v s.spIndex.isLt := rfl
@[simp] theorem State.writeSp_pc (s : State) (v : Byte) : (s.writeSp v).pc = s.pc := rfl
@[simp] theorem State.writeSp_fl (s : State) (v : Byte) : (s.writeSp v).fl = s.fl := rfl
@[simp] theorem State.writeSp_runState (s : State) (v : Byte) : (s.writeSp v).runState = s.runState := rfl
@[simp] theorem State.writeSp_faultCause (s : State) (v : Byte) : (s.writeSp v).faultCause = s.faultCause := rfl
@[simp] theorem State.writeSp_faultPc (s : State) (v : Byte) : (s.writeSp v).faultPc = s.faultPc := rfl
@[simp] theorem State.writeSp_faultOpcode (s : State) (v : Byte) : (s.writeSp v).faultOpcode = s.faultOpcode := rfl
@[simp] theorem State.writeSp_faultInfo (s : State) (v : Byte) : (s.writeSp v).faultInfo = s.faultInfo := rfl
@[simp] theorem State.writeSp_mem (s : State) (v : Byte) : (s.writeSp v).mem = s.mem := rfl
@[simp] theorem State.writeSp_output (s : State) (v : Byte) : (s.writeSp v).output = s.output := rfl
@[simp] theorem State.writeSp_spIndex (s : State) (v : Byte) : (s.writeSp v).spIndex = s.spIndex := rfl

/-! ### `MemWrite` (R34) -/

@[simp] theorem State.store_regs (s : State) (a v : Byte) : (s.store a v).regs = s.regs := rfl
@[simp] theorem State.store_pc (s : State) (a v : Byte) : (s.store a v).pc = s.pc := rfl
@[simp] theorem State.store_fl (s : State) (a v : Byte) : (s.store a v).fl = s.fl := rfl
@[simp] theorem State.store_runState (s : State) (a v : Byte) : (s.store a v).runState = s.runState := rfl
@[simp] theorem State.store_faultCause (s : State) (a v : Byte) : (s.store a v).faultCause = s.faultCause := rfl
@[simp] theorem State.store_faultPc (s : State) (a v : Byte) : (s.store a v).faultPc = s.faultPc := rfl
@[simp] theorem State.store_faultOpcode (s : State) (a v : Byte) : (s.store a v).faultOpcode = s.faultOpcode := rfl
@[simp] theorem State.store_faultInfo (s : State) (a v : Byte) : (s.store a v).faultInfo = s.faultInfo := rfl
@[simp] theorem State.store_mem (s : State) (a v : Byte) : (s.store a v).mem = Memory.write s.mem a v := rfl
@[simp] theorem State.store_output (s : State) (a v : Byte) : (s.store a v).output = s.output := rfl
@[simp] theorem State.store_spIndex (s : State) (a v : Byte) : (s.store a v).spIndex = s.spIndex := rfl

/-! ### `FL <- f` (R23) -/

@[simp] theorem State.writeFl_regs (s : State) (f : Byte) : (s.writeFl f).regs = s.regs := rfl
@[simp] theorem State.writeFl_pc (s : State) (f : Byte) : (s.writeFl f).pc = s.pc := rfl
@[simp] theorem State.writeFl_fl (s : State) (f : Byte) : (s.writeFl f).fl = f := rfl
@[simp] theorem State.writeFl_runState (s : State) (f : Byte) : (s.writeFl f).runState = s.runState := rfl
@[simp] theorem State.writeFl_faultCause (s : State) (f : Byte) : (s.writeFl f).faultCause = s.faultCause := rfl
@[simp] theorem State.writeFl_faultPc (s : State) (f : Byte) : (s.writeFl f).faultPc = s.faultPc := rfl
@[simp] theorem State.writeFl_faultOpcode (s : State) (f : Byte) : (s.writeFl f).faultOpcode = s.faultOpcode := rfl
@[simp] theorem State.writeFl_faultInfo (s : State) (f : Byte) : (s.writeFl f).faultInfo = s.faultInfo := rfl
@[simp] theorem State.writeFl_mem (s : State) (f : Byte) : (s.writeFl f).mem = s.mem := rfl
@[simp] theorem State.writeFl_output (s : State) (f : Byte) : (s.writeFl f).output = s.output := rfl
@[simp] theorem State.writeFl_spIndex (s : State) (f : Byte) : (s.writeFl f).spIndex = s.spIndex := rfl

/-! ### `pc <- pc + len` (R65) -/

@[simp] theorem State.fallThrough_regs (s : State) (n : Nat) : (s.fallThrough n).regs = s.regs := rfl
@[simp] theorem State.fallThrough_pc (s : State) (n : Nat) : (s.fallThrough n).pc = u8 (s.pc.toNat + n) := rfl
@[simp] theorem State.fallThrough_fl (s : State) (n : Nat) : (s.fallThrough n).fl = s.fl := rfl
@[simp] theorem State.fallThrough_runState (s : State) (n : Nat) : (s.fallThrough n).runState = s.runState := rfl
@[simp] theorem State.fallThrough_faultCause (s : State) (n : Nat) : (s.fallThrough n).faultCause = s.faultCause := rfl
@[simp] theorem State.fallThrough_faultPc (s : State) (n : Nat) : (s.fallThrough n).faultPc = s.faultPc := rfl
@[simp] theorem State.fallThrough_faultOpcode (s : State) (n : Nat) : (s.fallThrough n).faultOpcode = s.faultOpcode := rfl
@[simp] theorem State.fallThrough_faultInfo (s : State) (n : Nat) : (s.fallThrough n).faultInfo = s.faultInfo := rfl
@[simp] theorem State.fallThrough_mem (s : State) (n : Nat) : (s.fallThrough n).mem = s.mem := rfl
@[simp] theorem State.fallThrough_output (s : State) (n : Nat) : (s.fallThrough n).output = s.output := rfl
@[simp] theorem State.fallThrough_spIndex (s : State) (n : Nat) : (s.fallThrough n).spIndex = s.spIndex := rfl

/-! ### `pc <- t` (R65) -/

@[simp] theorem State.jumpTo_regs (s : State) (t : Byte) : (s.jumpTo t).regs = s.regs := rfl
@[simp] theorem State.jumpTo_pc (s : State) (t : Byte) : (s.jumpTo t).pc = t := rfl
@[simp] theorem State.jumpTo_fl (s : State) (t : Byte) : (s.jumpTo t).fl = s.fl := rfl
@[simp] theorem State.jumpTo_runState (s : State) (t : Byte) : (s.jumpTo t).runState = s.runState := rfl
@[simp] theorem State.jumpTo_faultCause (s : State) (t : Byte) : (s.jumpTo t).faultCause = s.faultCause := rfl
@[simp] theorem State.jumpTo_faultPc (s : State) (t : Byte) : (s.jumpTo t).faultPc = s.faultPc := rfl
@[simp] theorem State.jumpTo_faultOpcode (s : State) (t : Byte) : (s.jumpTo t).faultOpcode = s.faultOpcode := rfl
@[simp] theorem State.jumpTo_faultInfo (s : State) (t : Byte) : (s.jumpTo t).faultInfo = s.faultInfo := rfl
@[simp] theorem State.jumpTo_mem (s : State) (t : Byte) : (s.jumpTo t).mem = s.mem := rfl
@[simp] theorem State.jumpTo_output (s : State) (t : Byte) : (s.jumpTo t).output = s.output := rfl
@[simp] theorem State.jumpTo_spIndex (s : State) (t : Byte) : (s.jumpTo t).spIndex = s.spIndex := rfl

/-! ### `emit(v)` (R10) -/

@[simp] theorem State.emit_regs (s : State) (v : Byte) : (s.emit v).regs = s.regs := rfl
@[simp] theorem State.emit_pc (s : State) (v : Byte) : (s.emit v).pc = s.pc := rfl
@[simp] theorem State.emit_fl (s : State) (v : Byte) : (s.emit v).fl = s.fl := rfl
@[simp] theorem State.emit_runState (s : State) (v : Byte) : (s.emit v).runState = s.runState := rfl
@[simp] theorem State.emit_faultCause (s : State) (v : Byte) : (s.emit v).faultCause = s.faultCause := rfl
@[simp] theorem State.emit_faultPc (s : State) (v : Byte) : (s.emit v).faultPc = s.faultPc := rfl
@[simp] theorem State.emit_faultOpcode (s : State) (v : Byte) : (s.emit v).faultOpcode = s.faultOpcode := rfl
@[simp] theorem State.emit_faultInfo (s : State) (v : Byte) : (s.emit v).faultInfo = s.faultInfo := rfl
@[simp] theorem State.emit_mem (s : State) (v : Byte) : (s.emit v).mem = s.mem := rfl
@[simp] theorem State.emit_output (s : State) (v : Byte) : (s.emit v).output = s.output ++ [v] := rfl
@[simp] theorem State.emit_spIndex (s : State) (v : Byte) : (s.emit v).spIndex = s.spIndex := rfl

/-! ### `run_state <- HALTED` (R66) -/

@[simp] theorem State.halt_regs (s : State) : (s.halt).regs = s.regs := rfl
@[simp] theorem State.halt_pc (s : State) : (s.halt).pc = s.pc := rfl
@[simp] theorem State.halt_fl (s : State) : (s.halt).fl = s.fl := rfl
@[simp] theorem State.halt_runState (s : State) : (s.halt).runState = .halted := rfl
@[simp] theorem State.halt_faultCause (s : State) : (s.halt).faultCause = s.faultCause := rfl
@[simp] theorem State.halt_faultPc (s : State) : (s.halt).faultPc = s.faultPc := rfl
@[simp] theorem State.halt_faultOpcode (s : State) : (s.halt).faultOpcode = s.faultOpcode := rfl
@[simp] theorem State.halt_faultInfo (s : State) : (s.halt).faultInfo = s.faultInfo := rfl
@[simp] theorem State.halt_mem (s : State) : (s.halt).mem = s.mem := rfl
@[simp] theorem State.halt_output (s : State) : (s.halt).output = s.output := rfl
@[simp] theorem State.halt_spIndex (s : State) : (s.halt).spIndex = s.spIndex := rfl

/-! ### fault entry (R86) -/

@[simp] theorem State.raise_regs (s : State) (op : Byte) (f : Raised) : (s.raise op f).regs = s.regs := rfl
@[simp] theorem State.raise_pc (s : State) (op : Byte) (f : Raised) : (s.raise op f).pc = s.pc := rfl
@[simp] theorem State.raise_fl (s : State) (op : Byte) (f : Raised) : (s.raise op f).fl = s.fl := rfl
@[simp] theorem State.raise_runState (s : State) (op : Byte) (f : Raised) : (s.raise op f).runState = .faulted := rfl
@[simp] theorem State.raise_faultCause (s : State) (op : Byte) (f : Raised) : (s.raise op f).faultCause = f.cause.code := rfl
@[simp] theorem State.raise_faultPc (s : State) (op : Byte) (f : Raised) : (s.raise op f).faultPc = s.pc := rfl
@[simp] theorem State.raise_faultOpcode (s : State) (op : Byte) (f : Raised) : (s.raise op f).faultOpcode = op := rfl
@[simp] theorem State.raise_faultInfo (s : State) (op : Byte) (f : Raised) : (s.raise op f).faultInfo = f.info := rfl
@[simp] theorem State.raise_mem (s : State) (op : Byte) (f : Raised) : (s.raise op f).mem = s.mem := rfl
@[simp] theorem State.raise_output (s : State) (op : Byte) (f : Raised) : (s.raise op f).output = s.output := rfl
@[simp] theorem State.raise_spIndex (s : State) (op : Byte) (f : Raised) : (s.raise op f).spIndex = s.spIndex := rfl

/-! ### `reset()` (R96) -/

@[simp] theorem State.afterReset_regs (s : State) : (s.afterReset).regs = resetRegs s.spIndex := rfl
@[simp] theorem State.afterReset_pc (s : State) : (s.afterReset).pc = 0x00 := rfl
@[simp] theorem State.afterReset_fl (s : State) : (s.afterReset).fl = 0x00 := rfl
@[simp] theorem State.afterReset_runState (s : State) : (s.afterReset).runState = .running := rfl
@[simp] theorem State.afterReset_faultCause (s : State) : (s.afterReset).faultCause = 0x00 := rfl
@[simp] theorem State.afterReset_faultPc (s : State) : (s.afterReset).faultPc = 0x00 := rfl
@[simp] theorem State.afterReset_faultOpcode (s : State) : (s.afterReset).faultOpcode = 0x00 := rfl
@[simp] theorem State.afterReset_faultInfo (s : State) : (s.afterReset).faultInfo = 0x00 := rfl
@[simp] theorem State.afterReset_mem (s : State) : (s.afterReset).mem = s.mem := rfl
@[simp] theorem State.afterReset_output (s : State) : (s.afterReset).output = [] := rfl
@[simp] theorem State.afterReset_spIndex (s : State) : (s.afterReset).spIndex = s.spIndex := rfl

/-! ### R86 as written -/

@[simp] theorem State.faultedWith_regs (s : State) (c op i : Byte) : (s.faultedWith c op i).regs = s.regs := rfl
@[simp] theorem State.faultedWith_pc (s : State) (c op i : Byte) : (s.faultedWith c op i).pc = s.pc := rfl
@[simp] theorem State.faultedWith_fl (s : State) (c op i : Byte) : (s.faultedWith c op i).fl = s.fl := rfl
@[simp] theorem State.faultedWith_runState (s : State) (c op i : Byte) : (s.faultedWith c op i).runState = .faulted := rfl
@[simp] theorem State.faultedWith_faultCause (s : State) (c op i : Byte) : (s.faultedWith c op i).faultCause = c := rfl
@[simp] theorem State.faultedWith_faultPc (s : State) (c op i : Byte) : (s.faultedWith c op i).faultPc = s.pc := rfl
@[simp] theorem State.faultedWith_faultOpcode (s : State) (c op i : Byte) : (s.faultedWith c op i).faultOpcode = op := rfl
@[simp] theorem State.faultedWith_faultInfo (s : State) (c op i : Byte) : (s.faultedWith c op i).faultInfo = i := rfl
@[simp] theorem State.faultedWith_mem (s : State) (c op i : Byte) : (s.faultedWith c op i).mem = s.mem := rfl
@[simp] theorem State.faultedWith_output (s : State) (c op i : Byte) : (s.faultedWith c op i).output = s.output := rfl
@[simp] theorem State.faultedWith_spIndex (s : State) (c op i : Byte) : (s.faultedWith c op i).spIndex = s.spIndex := rfl

/-! ### Register and memory reads after an update -/

/-- A register read sees the register file only. -/
theorem State.readReg_congr {s t : State} (h : t.regs = s.regs) (r : RegIdx) : t.readReg r = s.readReg r := by
  simp [State.readReg, h]

/-- A memory read sees the memory only. -/
theorem State.load_congr {s t : State} (h : t.mem = s.mem) (a : Byte) : t.load a = s.load a := by
  simp [State.load, h]

/-- A read after a register write (R14, R15). -/
theorem State.readReg_writeReg (s : State) (i r : RegIdx) (v : Byte) :
    (s.writeReg i v).readReg r = if r = i then v else s.readReg r := by
  simp only [State.readReg, State.writeReg_regs, Vector.getElem_set]
  by_cases h : r = i
  · simp [h]
  · have : i.val ≠ r.val := fun e => h (Fin.ext e.symm)
    simp [h, this]

@[simp] theorem State.readReg_writeReg_self (s : State) (i : RegIdx) (v : Byte) : (s.writeReg i v).readReg i = v := by
  simp [State.readReg_writeReg]

theorem State.readReg_writeReg_ne (s : State) {i r : RegIdx} (v : Byte) (h : r ≠ i) :
    (s.writeReg i v).readReg r = s.readReg r := by
  simp [State.readReg_writeReg, h]

theorem State.readReg_writeSp (s : State) (r : RegIdx) (v : Byte) :
    (s.writeSp v).readReg r = if r = s.spIndex then v else s.readReg r := State.readReg_writeReg s s.spIndex r v

@[simp] theorem State.sp_writeSp (s : State) (v : Byte) : (s.writeSp v).sp = v := State.readReg_writeReg_self s s.spIndex v

/-- SP after a register write: SP is x[SP_INDEX] (R17). -/
theorem State.sp_writeReg (s : State) (i : RegIdx) (v : Byte) :
    (s.writeReg i v).sp = if s.spIndex = i then v else s.sp := State.readReg_writeReg s i s.spIndex v

@[simp] theorem State.load_writeReg (s : State) (i : RegIdx) (v : Byte) (adr : Byte) : (s.writeReg i v).load adr = s.load adr := rfl
@[simp] theorem State.load_writeSp (s : State) (v : Byte) (adr : Byte) : (s.writeSp v).load adr = s.load adr := rfl
@[simp] theorem State.readReg_store (s : State) (a v : Byte) (r : RegIdx) : (s.store a v).readReg r = s.readReg r := rfl
@[simp] theorem State.sp_store (s : State) (a v : Byte) : (s.store a v).sp = s.sp := rfl
@[simp] theorem State.readReg_writeFl (s : State) (f : Byte) (r : RegIdx) : (s.writeFl f).readReg r = s.readReg r := rfl
@[simp] theorem State.sp_writeFl (s : State) (f : Byte) : (s.writeFl f).sp = s.sp := rfl
@[simp] theorem State.load_writeFl (s : State) (f : Byte) (adr : Byte) : (s.writeFl f).load adr = s.load adr := rfl
@[simp] theorem State.readReg_fallThrough (s : State) (n : Nat) (r : RegIdx) : (s.fallThrough n).readReg r = s.readReg r := rfl
@[simp] theorem State.sp_fallThrough (s : State) (n : Nat) : (s.fallThrough n).sp = s.sp := rfl
@[simp] theorem State.load_fallThrough (s : State) (n : Nat) (adr : Byte) : (s.fallThrough n).load adr = s.load adr := rfl
@[simp] theorem State.readReg_jumpTo (s : State) (t : Byte) (r : RegIdx) : (s.jumpTo t).readReg r = s.readReg r := rfl
@[simp] theorem State.sp_jumpTo (s : State) (t : Byte) : (s.jumpTo t).sp = s.sp := rfl
@[simp] theorem State.load_jumpTo (s : State) (t : Byte) (adr : Byte) : (s.jumpTo t).load adr = s.load adr := rfl
@[simp] theorem State.readReg_emit (s : State) (v : Byte) (r : RegIdx) : (s.emit v).readReg r = s.readReg r := rfl
@[simp] theorem State.sp_emit (s : State) (v : Byte) : (s.emit v).sp = s.sp := rfl
@[simp] theorem State.load_emit (s : State) (v : Byte) (adr : Byte) : (s.emit v).load adr = s.load adr := rfl
@[simp] theorem State.readReg_halt (s : State) (r : RegIdx) : (s.halt).readReg r = s.readReg r := rfl
@[simp] theorem State.sp_halt (s : State) : (s.halt).sp = s.sp := rfl
@[simp] theorem State.load_halt (s : State) (adr : Byte) : (s.halt).load adr = s.load adr := rfl
@[simp] theorem State.readReg_raise (s : State) (op : Byte) (f : Raised) (r : RegIdx) : (s.raise op f).readReg r = s.readReg r := rfl
@[simp] theorem State.sp_raise (s : State) (op : Byte) (f : Raised) : (s.raise op f).sp = s.sp := rfl
@[simp] theorem State.load_raise (s : State) (op : Byte) (f : Raised) (adr : Byte) : (s.raise op f).load adr = s.load adr := rfl
@[simp] theorem State.load_afterReset (s : State) (adr : Byte) : (s.afterReset).load adr = s.load adr := rfl
@[simp] theorem State.readReg_faultedWith (s : State) (c op i : Byte) (r : RegIdx) : (s.faultedWith c op i).readReg r = s.readReg r := rfl
@[simp] theorem State.sp_faultedWith (s : State) (c op i : Byte) : (s.faultedWith c op i).sp = s.sp := rfl
@[simp] theorem State.load_faultedWith (s : State) (c op i : Byte) (adr : Byte) : (s.faultedWith c op i).load adr = s.load adr := rfl

end Sys2Proof.Machine
end

