-- ==== Sys2Proof/Laws/Flags.lean ====
section
/-! SUPPORT. The comparison of CMP, case by case, and EQF as a parity. -/

namespace Sys2Proof.Machine

theorem compareFlags_eq {a b : Byte} (h : a.toNat = b.toNat) : compareFlags a b = 0x01 := by simp [compareFlags, h]

theorem compareFlags_gt {a b : Byte} (h : b.toNat < a.toNat) : compareFlags a b = 0x02 := by
  simp [compareFlags, h, Nat.ne_of_gt h, Nat.not_lt.mpr (Nat.le_of_lt h)]

theorem compareFlags_lt {a b : Byte} (h : a.toNat < b.toNat) : compareFlags a b = 0x04 := by
  simp [compareFlags, h, Nat.ne_of_lt h, Nat.not_lt.mpr (Nat.le_of_lt h)]

/-- EQF is bit 0, the parity of FL. -/
theorem eqf_eq_decide_odd (fl : Byte) : eqf fl = decide (fl.toNat % 2 = 1) := by
  simp [eqf, BitVec.getLsbD, Nat.testBit_zero]

end Sys2Proof.Machine
end

