-- ==== Sys2Proof/Laws/Memory.lean ====
section
/-! SUPPORT. The laws of memory: a read after a write, and that every write keeps the canonical form. -/

namespace Sys2Proof.Machine

theorem Memory.lookup_erase (m : Memory) (k j : Nat) :
    Memory.lookup (Memory.erase m k) j = if j = k then Config.memFill else Memory.lookup m j := by
  induction m with
  | nil => simp [Memory.erase, Memory.lookup]
  | cons c m ih =>
    obtain ⟨a, w⟩ := c
    simp only [Memory.erase] at ih
    by_cases ha : a = k
    · subst ha
      by_cases hj : j = a
      · subst hj; simpa [Memory.erase] using ih
      · simp [Memory.erase, Memory.lookup, ih, hj, Ne.symm hj]
    · by_cases hj : j = k
      · subst hj; simp [Memory.erase, Memory.lookup, ih, ha]
      · simp [Memory.erase, Memory.lookup, ih, ha, hj]

/-- Inserting a cell for an address that is not listed. -/
theorem Memory.lookup_insertCell (m : Memory) (k : Nat) (v : Byte) (j : Nat) (h : ∀ c ∈ m, c.1 ≠ k) :
    Memory.lookup (Memory.insertCell k v m) j = if j = k then v else Memory.lookup m j := by
  induction m with
  | nil => simp [Memory.insertCell, Memory.lookup, eq_comm]
  | cons c m ih =>
    obtain ⟨a, w⟩ := c
    have ha : a ≠ k := h (a, w) (by simp)
    have ih := ih (fun c hc => h c (by simp [hc]))
    by_cases hk : k < a
    · simp [Memory.insertCell, hk, Memory.lookup, eq_comm]
    · by_cases hj : a = j
      · subst hj; simp [Memory.insertCell, hk, Memory.lookup, ha]
      · simp [Memory.insertCell, hk, Memory.lookup, ih, hj]

theorem Memory.erase_not_listed (m : Memory) (k : Nat) : ∀ c ∈ Memory.erase m k, c.1 ≠ k := by
  intro c hc; simpa [Memory.erase] using (List.mem_filter.mp hc).2

/-- One byte written, every other byte as before (R34), at the level of cells. -/
theorem Memory.read_write (m : Memory) (a v b : Byte) :
    Memory.read (Memory.write m a v) b = if b = a then v else Memory.read m b := by
  have hab : (b.toNat = a.toNat) ↔ b = a := BitVec.toNat_inj
  unfold Memory.read Memory.write
  split
  · rename_i hv
    rw [Memory.lookup_erase]; simp only [hab, hv]
  · rw [Memory.lookup_insertCell _ _ _ _ (Memory.erase_not_listed m a.toNat), Memory.lookup_erase]
    simp only [hab]; split <;> simp_all

theorem State.load_store (s : State) (a v b : Byte) : (s.store a v).load b = if b = a then v else s.load b :=
  Memory.read_write s.mem a v b

@[simp] theorem State.load_store_self (s : State) (a v : Byte) : (s.store a v).load a = v := by simp [State.load_store]

theorem State.load_store_ne (s : State) {a b : Byte} (v : Byte) (h : b ≠ a) : (s.store a v).load b = s.load b := by
  simp [State.load_store, h]

/-! ### The canonical form -/

theorem Memory.wfFrom_mono {lo lo' : Nat} (h : lo' ≤ lo) : ∀ {m : Memory}, Memory.wfFrom lo m = true → Memory.wfFrom lo' m = true
  | [], _ => rfl
  | (a, v) :: m, hm => by
    simp only [Memory.wfFrom, Bool.and_eq_true, decide_eq_true_eq] at hm ⊢
    exact ⟨⟨⟨by omega, hm.1.1.2⟩, hm.1.2⟩, hm.2⟩

theorem Memory.wfFrom_erase (k : Nat) : ∀ {lo : Nat} {m : Memory}, Memory.wfFrom lo m = true → Memory.wfFrom lo (Memory.erase m k) = true
  | _, [], _ => rfl
  | lo, (a, v) :: m, hm => by
    simp only [Memory.wfFrom, Bool.and_eq_true, decide_eq_true_eq] at hm
    have ih := Memory.wfFrom_erase k hm.2
    by_cases ha : a = k
    · have : Memory.erase ((a, v) :: m) k = Memory.erase m k := by simp [Memory.erase, ha]
      rw [this]; exact Memory.wfFrom_mono (by omega) ih
    · have : Memory.erase ((a, v) :: m) k = (a, v) :: Memory.erase m k := by simp [Memory.erase, ha]
      rw [this]; simp [Memory.wfFrom, hm.1.1.1, hm.1.1.2, hm.1.2, ih]

theorem Memory.wfFrom_insertCell (k : Nat) (v : Byte) (hk : k < 256) (hv : v ≠ Config.memFill) :
    ∀ {lo : Nat} {m : Memory}, lo ≤ k → (∀ c ∈ m, c.1 ≠ k) → Memory.wfFrom lo m = true →
      Memory.wfFrom lo (Memory.insertCell k v m) = true
  | lo, [], hlo, _, _ => by simp [Memory.insertCell, Memory.wfFrom, hlo, hk, hv]
  | lo, (a, w) :: m, hlo, hc, hm => by
    have ha : a ≠ k := hc (a, w) (by simp)
    simp only [Memory.wfFrom, Bool.and_eq_true, decide_eq_true_eq] at hm
    by_cases hka : k < a
    · simp [Memory.insertCell, hka, Memory.wfFrom, hlo, hk, hv, hm.1.1.2, hm.1.2, hm.2]
    · have ih := Memory.wfFrom_insertCell k v hk hv (lo := a + 1) (by omega) (fun c h => hc c (by simp [h])) hm.2
      simp [Memory.insertCell, hka, Memory.wfFrom, hm.1.1.1, hm.1.1.2, hm.1.2, ih]

/-- Every write keeps the canonical form. -/
theorem Memory.wf_write (m : Memory) (a v : Byte) (h : Memory.wf m = true) : Memory.wf (Memory.write m a v) = true := by
  unfold Memory.write
  split
  · exact Memory.wfFrom_erase _ h
  · rename_i hv
    exact Memory.wfFrom_insertCell _ _ a.isLt hv (Nat.zero_le _) (Memory.erase_not_listed m a.toNat) (Memory.wfFrom_erase _ h)

theorem State.store_wf (s : State) (a v : Byte) (h : Memory.wf s.mem = true) : Memory.wf (s.store a v).mem = true :=
  Memory.wf_write s.mem a v h

/-- The memory of the state after reset is canonical. -/
theorem State.reset_mem_wf : Memory.wf State.reset.mem = true := rfl

end Sys2Proof.Machine
end

