-- ==== Sys2Proof/Laws/Ops.lean ====
section
/-! SUPPORT. What each shared operation can do, said once: the checks, the stack pointer's moves, fault entry and the two instruction shapes. -/

namespace Sys2Proof.Machine

/-! ### Ending an instruction -/

/-- A check that passed hands its value on. -/
@[simp] theorem passed_bind {α β : Type} (x : α) (f : α → Except Raised β) : (Except.ok x >>= f) = f x := rfl

/-- A fault raised ends the instruction: nothing after it runs (R86). -/
@[simp] theorem raised_bind {α β : Type} (e : Raised) (f : α → Except Raised β) :
    ((Except.error e : Except Raised α) >>= f) = .error e := rfl

@[simp] theorem passed_pure {α : Type} (x : α) : (pure x : Except Raised α) = .ok x := rfl

@[simp] theorem finish_error (op : Byte) (s : State) (f : Raised) : finish op s (.error f) = .next (s.raise op f) := rfl

@[simp] theorem finish_ok (op : Byte) (s t : State) : finish op s (.ok t) = .next t := rfl

/-- An instruction answers a next state, which is a fault entry from the state it began in, or what its body answers. -/
theorem finish_eq_next {op : Byte} {s t : State} {r : Except Raised State} (h : finish op s r = .next t) :
    (∃ f, r = .error f ∧ t = s.raise op f) ∨ r = .ok t := by
  cases r with
  | error f => simp only [finish, Host.Outcome.next.injEq] at h; exact .inl ⟨f, rfl, h.symm⟩
  | ok u => simp only [finish, Host.Outcome.next.injEq] at h; exact .inr (by rw [h])

/-- Fault entry is R86 as written. -/
theorem State.raise_eq_faultedWith (s : State) (op : Byte) (f : Raised) :
    s.raise op f = s.faultedWith f.cause.code op f.info := rfl

/-! ### The checks (R61 to R63) -/

theorem fetchInside_ok {len : Nat} {s : State} (h : s.pc.toNat + len ≤ 256) : fetchInside len s = .ok () := by
  simp [fetchInside, Nat.not_lt.mpr h]

theorem fetchInside_error {len : Nat} {s : State} (h : 256 < s.pc.toNat + len) :
    fetchInside len s = .error ⟨.fetchOverrun, u8 len⟩ := by simp [fetchInside, h]

theorem successorExists_ok {len : Nat} {s : State} (h : s.pc.toNat + len ≤ 255) : successorExists len s = .ok () := by
  simp [successorExists, Nat.not_lt.mpr h]

theorem successorExists_error {len : Nat} {s : State} (h : 255 < s.pc.toNat + len) :
    successorExists len s = .error ⟨.pcOverflow, u8 len⟩ := by simp [successorExists, h]

theorem registerOperand_ok {b : Byte} {r : RegIdx} (h : b.toNat = r.val) : registerOperand b = .ok r := by
  simp [registerOperand, h]

theorem registerOperand_error {b : Byte} (h : 7 < b.toNat) : registerOperand b = .error ⟨.badRegister, b⟩ := by
  simp [registerOperand, Nat.not_lt.mpr h]

/-- A register operand names its register or raises BAD_REGISTER, and nothing else. -/
theorem registerOperand_cases (b : Byte) :
    (∃ r : RegIdx, b.toNat = r.val ∧ registerOperand b = .ok r) ∨
      (7 < b.toNat ∧ registerOperand b = .error ⟨.badRegister, b⟩) := by
  by_cases h : b.toNat < 8
  · exact .inl ⟨⟨b.toNat, h⟩, rfl, registerOperand_ok rfl⟩
  · exact .inr ⟨by omega, registerOperand_error (by omega)⟩

/-! ### The stack pointer (R77 to R80) -/

theorem decrementSp_ok {s : State} (h : 0 < s.sp.toNat) : decrementSp s = .ok (s.writeSp (u8 (s.sp.toNat - 1))) := by
  simp [decrementSp, Nat.pos_iff_ne_zero.mp h]

theorem decrementSp_error {s : State} (h : s.sp.toNat = 0) : decrementSp s = .error ⟨.stackOverflow, 0⟩ := by
  simp [decrementSp, h]

theorem incrementSp_ok {s : State} (h : s.sp.toNat < 255) : incrementSp s = .ok (s.writeSp (u8 (s.sp.toNat + 1))) := by
  simp [incrementSp, Nat.ne_of_lt h]

theorem incrementSp_error {s : State} (h : s.sp.toNat = 255) : incrementSp s = .error ⟨.stackUnderflow, 255⟩ := by
  simp [incrementSp, h]

/-- SP - 1 as a byte address, when SP is not 0. -/
theorem decremented_toNat (v : Byte) : (u8 (v.toNat - 1)).toNat = v.toNat - 1 := by
  have := v.isLt; simp; omega

/-! ### The two instruction shapes -/

/-- The two-register shape completes with its handler's state and pc + len. -/
theorem execTwoRegisters_next {i : Instr} {a b : Byte} {h : RegIdx → RegIdx → State → State} {s : State} {ra rb : RegIdx}
    (ha : a.toNat = ra.val) (hb : b.toNat = rb.val) (hp : s.pc.toNat + i.length ≤ 255) :
    execTwoRegisters i a b h s = .next ((h ra rb s).fallThrough i.length) := by
  simp only [execTwoRegisters, fetchInside_ok (Nat.le_succ_of_le hp), registerOperand_ok ha, registerOperand_ok hb,
    successorExists_ok hp]
  rfl

/-- The conditional shape, taken. -/
theorem execBranch_taken {i : Instr} {a : Byte} {s : State} {ra : RegIdx} (ha : a.toNat = ra.val)
    (hp : s.pc.toNat + i.length ≤ 256) : execBranch i a true s = .next (s.jumpTo (s.readReg ra)) := by
  simp only [execBranch, fetchInside_ok hp, registerOperand_ok ha]
  rfl

/-- The conditional shape, not taken. -/
theorem execBranch_notTaken {i : Instr} {a : Byte} {s : State} {ra : RegIdx} (ha : a.toNat = ra.val)
    (hp : s.pc.toNat + i.length ≤ 255) : execBranch i a false s = .next (s.fallThrough i.length) := by
  simp only [execBranch, fetchInside_ok (Nat.le_succ_of_le hp), registerOperand_ok ha, successorExists_ok hp]
  rfl

end Sys2Proof.Machine
end

