-- ==== Sys2Proof/Laws/PerInstr.lean ====
section
/-! SUPPORT. Facts about every instruction as syntax, one lemma per constructor: what the decoder makes of an instruction's own opcode byte, and how long its encoding is. -/

namespace Sys2Proof.Laws

/-- The decoder reads an instruction back from its opcode byte and operand bytes, whatever stands in the operand bytes it does not use (R45, R52). -/
def FetchDecodes.Statement (i : Instr) : Prop :=
  ∀ x y : Byte, decodeFetched i.opcode ((i.operandBytes ++ [x, y]).getD 0 0) ((i.operandBytes ++ [x, y]).getD 1 0) = .ok i

theorem FetchDecodes.hlt : FetchDecodes.Statement .hlt := fun _ _ => rfl
theorem FetchDecodes.ldi (a imm : Byte) : FetchDecodes.Statement (.ldi a imm) := fun _ _ => rfl
theorem FetchDecodes.prn (a : Byte) : FetchDecodes.Statement (.prn a) := fun _ _ => rfl
theorem FetchDecodes.mul (a b : Byte) : FetchDecodes.Statement (.mul a b) := fun _ _ => rfl
theorem FetchDecodes.pop (a : Byte) : FetchDecodes.Statement (.pop a) := fun _ _ => rfl
theorem FetchDecodes.push (a : Byte) : FetchDecodes.Statement (.push a) := fun _ _ => rfl
theorem FetchDecodes.call (a : Byte) : FetchDecodes.Statement (.call a) := fun _ _ => rfl
theorem FetchDecodes.ret : FetchDecodes.Statement .ret := fun _ _ => rfl
theorem FetchDecodes.add (a b : Byte) : FetchDecodes.Statement (.add a b) := fun _ _ => rfl
theorem FetchDecodes.jmp (a : Byte) : FetchDecodes.Statement (.jmp a) := fun _ _ => rfl
theorem FetchDecodes.jeq (a : Byte) : FetchDecodes.Statement (.jeq a) := fun _ _ => rfl
theorem FetchDecodes.jne (a : Byte) : FetchDecodes.Statement (.jne a) := fun _ _ => rfl
theorem FetchDecodes.cmp (a b : Byte) : FetchDecodes.Statement (.cmp a b) := fun _ _ => rfl

/-- The operand bytes are as many as bits 7:6 of the opcode byte say (R46, R48, R52). -/
def OperandCount.Statement (i : Instr) : Prop := i.operandBytes.length = operandCount i.opcode

theorem OperandCount.hlt : OperandCount.Statement .hlt := by simp [OperandCount.Statement, operandCount, Instr.opcode, Instr.operandBytes]
theorem OperandCount.ldi (a imm : Byte) : OperandCount.Statement (.ldi a imm) := by simp [OperandCount.Statement, operandCount, Instr.opcode, Instr.operandBytes]
theorem OperandCount.prn (a : Byte) : OperandCount.Statement (.prn a) := by simp [OperandCount.Statement, operandCount, Instr.opcode, Instr.operandBytes]
theorem OperandCount.mul (a b : Byte) : OperandCount.Statement (.mul a b) := by simp [OperandCount.Statement, operandCount, Instr.opcode, Instr.operandBytes]
theorem OperandCount.pop (a : Byte) : OperandCount.Statement (.pop a) := by simp [OperandCount.Statement, operandCount, Instr.opcode, Instr.operandBytes]
theorem OperandCount.push (a : Byte) : OperandCount.Statement (.push a) := by simp [OperandCount.Statement, operandCount, Instr.opcode, Instr.operandBytes]
theorem OperandCount.call (a : Byte) : OperandCount.Statement (.call a) := by simp [OperandCount.Statement, operandCount, Instr.opcode, Instr.operandBytes]
theorem OperandCount.ret : OperandCount.Statement .ret := by simp [OperandCount.Statement, operandCount, Instr.opcode, Instr.operandBytes]
theorem OperandCount.add (a b : Byte) : OperandCount.Statement (.add a b) := by simp [OperandCount.Statement, operandCount, Instr.opcode, Instr.operandBytes]
theorem OperandCount.jmp (a : Byte) : OperandCount.Statement (.jmp a) := by simp [OperandCount.Statement, operandCount, Instr.opcode, Instr.operandBytes]
theorem OperandCount.jeq (a : Byte) : OperandCount.Statement (.jeq a) := by simp [OperandCount.Statement, operandCount, Instr.opcode, Instr.operandBytes]
theorem OperandCount.jne (a : Byte) : OperandCount.Statement (.jne a) := by simp [OperandCount.Statement, operandCount, Instr.opcode, Instr.operandBytes]
theorem OperandCount.cmp (a b : Byte) : OperandCount.Statement (.cmp a b) := by simp [OperandCount.Statement, operandCount, Instr.opcode, Instr.operandBytes]

end Sys2Proof.Laws

namespace Sys2Proof

/-- An instruction the decoder answers has the fetched opcode byte. -/
theorem decodeFetched_ok_opcode {op a b : Byte} {i : Instr} (h : decodeFetched op a b = .ok i) : i.opcode = op := by
  unfold decodeFetched at h
  split at h <;> cases h <;> rfl

/-- The only rejection of a fetch is of its opcode byte (R60). -/
theorem decodeFetched_error {op a b : Byte} {r : Reject} (h : decodeFetched op a b = .error r) : r = .illegalOpcode op := by
  unfold decodeFetched at h
  split at h <;> cases h
  rfl

/-! ### Lengths (R48, R52) -/

@[simp] theorem Instr.length_hlt : Instr.hlt.length = 1 := by simp [Instr.length, instrLength, operandCount, Instr.opcode]
@[simp] theorem Instr.length_ldi (a imm : Byte) : (Instr.ldi a imm).length = 3 := by simp [Instr.length, instrLength, operandCount, Instr.opcode]
@[simp] theorem Instr.length_prn (a : Byte) : (Instr.prn a).length = 2 := by simp [Instr.length, instrLength, operandCount, Instr.opcode]
@[simp] theorem Instr.length_mul (a b : Byte) : (Instr.mul a b).length = 3 := by simp [Instr.length, instrLength, operandCount, Instr.opcode]
@[simp] theorem Instr.length_pop (a : Byte) : (Instr.pop a).length = 2 := by simp [Instr.length, instrLength, operandCount, Instr.opcode]
@[simp] theorem Instr.length_push (a : Byte) : (Instr.push a).length = 2 := by simp [Instr.length, instrLength, operandCount, Instr.opcode]
@[simp] theorem Instr.length_call (a : Byte) : (Instr.call a).length = 2 := by simp [Instr.length, instrLength, operandCount, Instr.opcode]
@[simp] theorem Instr.length_ret : Instr.ret.length = 1 := by simp [Instr.length, instrLength, operandCount, Instr.opcode]
@[simp] theorem Instr.length_add (a b : Byte) : (Instr.add a b).length = 3 := by simp [Instr.length, instrLength, operandCount, Instr.opcode]
@[simp] theorem Instr.length_jmp (a : Byte) : (Instr.jmp a).length = 2 := by simp [Instr.length, instrLength, operandCount, Instr.opcode]
@[simp] theorem Instr.length_jeq (a : Byte) : (Instr.jeq a).length = 2 := by simp [Instr.length, instrLength, operandCount, Instr.opcode]
@[simp] theorem Instr.length_jne (a : Byte) : (Instr.jne a).length = 2 := by simp [Instr.length, instrLength, operandCount, Instr.opcode]
@[simp] theorem Instr.length_cmp (a b : Byte) : (Instr.cmp a b).length = 3 := by simp [Instr.length, instrLength, operandCount, Instr.opcode]

/-- The length read from the opcode byte is the number of bytes the encoder writes. -/
theorem Instr.length_eq_encode (i : Instr) : i.length = (encode i).length := by
  cases i <;> simp [encode, Instr.operandBytes]

end Sys2Proof
end

