-- ==== Sys2Proof/Laws/Exec.lean ====
section
/-! SUPPORT. Everything an instruction can do, said once: `exec` enters the fault `instrFault` names, or has its plain effect. Proofs about `exec` cite `exec_eq` and then treat `effect` by cases. -/

namespace Sys2Proof.Machine

/-- The register an operand byte names once check 3 has passed. -/
def regOf (b : Byte) : RegIdx := ⟨b.toNat % 8, Nat.mod_lt _ (by decide)⟩

theorem regOf_eq {b : Byte} {r : RegIdx} (h : b.toNat = r.val) : regOf b = r := by
  have := r.isLt; apply Fin.ext; simp [regOf]; omega

theorem toNat_regOf {b : Byte} (h : isRegister b = true) : b.toNat = (regOf b).val := by
  simp only [isRegister, decide_eq_true_eq] at h; simp [regOf]; omega

/-- The state an instruction leaves when it raises no fault. -/
def effect : Instr → State → State
  | .hlt, s => (s.fallThrough 1).halt
  | .ldi a imm, s => (s.writeReg (regOf a) imm).fallThrough 3
  | .prn a, s => (s.emit (s.readReg (regOf a))).fallThrough 2
  | .mul a b, s => (aluHandler .mul (regOf a) (regOf b) s).fallThrough 3
  | .pop a, s =>
    let t := s.writeReg (regOf a) (s.load s.sp)
    (t.writeSp (u8 (t.sp.toNat + 1))).fallThrough 2
  | .push a, s =>
    let t := s.writeSp (u8 (s.sp.toNat - 1))
    (t.store t.sp (t.readReg (regOf a))).fallThrough 2
  | .call a, s =>
    let t := s.writeSp (u8 (s.sp.toNat - 1))
    (t.store t.sp (u8 (s.pc.toNat + 2))).jumpTo (t.readReg (regOf a))
  | .ret, s => (s.writeSp (u8 (s.sp.toNat + 1))).jumpTo (s.load s.sp)
  | .add a b, s => (aluHandler .add (regOf a) (regOf b) s).fallThrough 3
  | .jmp a, s => s.jumpTo (s.readReg (regOf a))
  | .jeq a, s => if eqf s.fl then s.jumpTo (s.readReg (regOf a)) else s.fallThrough 2
  | .jne a, s => if eqf s.fl then s.fallThrough 2 else s.jumpTo (s.readReg (regOf a))
  | .cmp a b, s => (compareHandler (regOf a) (regOf b) s).fallThrough 3

/-- What an instruction leads to: the entry of its fault, or its effect. -/
def outcome (i : Instr) (s : State) : State :=
  match instrFault i s with
  | some (c, f) => s.faultedWith c i.opcode f
  | none => effect i s

theorem registerOperand_eq (b : Byte) :
    registerOperand b = if isRegister b then .ok (regOf b) else .error ⟨.badRegister, b⟩ := by
  rcases registerOperand_cases b with ⟨r, hr, h⟩ | ⟨hb, h⟩
  · have : isRegister b = true := by have := r.isLt; simp [isRegister]; omega
    rw [h, if_pos this, regOf_eq hr]
  · have : isRegister b = false := by simp [isRegister]; omega
    rw [h, this]; rfl

/-- The fault of an instruction, with its length read from the opcode byte. -/
theorem instrFault_eq (i : Instr) (s : State) :
    instrFault i s =
      if 256 < s.pc.toNat + i.length then some (2, u8 i.length)
      else match i.registerOperands.find? (fun b => !isRegister b) with
        | some b => some (3, b)
        | none =>
          if needsSuccessor i s.fl = true ∧ 255 < s.pc.toNat + i.length then some (4, u8 i.length) else stackFault i s := by
  simp only [instrFault, Instr.length_eq_encode, Bool.and_eq_true, decide_eq_true_eq, gt_iff_lt] <;> rfl

/-- `exec` of an instruction that overruns memory raises FETCH_OVERRUN. -/
theorem exec_overrun (i : Instr) (s : State) (h : 256 < s.pc.toNat + i.length) :
    exec i s = .next (s.faultedWith 2 i.opcode (u8 i.length)) := by
  cases i <;>
    simp only [exec, execHlt, execLdi, execPrn, execMul, execAdd, execCmp, execTwoRegisters, execPush, execPop, execCall,
      execRet, execJmp, execJeq, execJne, execBranch, fetchInside_error h] <;> rfl

theorem execTwoRegisters_eq (i : Instr) (a b : Byte) (h : RegIdx → RegIdx → State → State) (s : State)
    (hr : i.registerOperands = [a, b]) (hn : needsSuccessor i s.fl = true) (hs : stackFault i s = none)
    (hl : s.pc.toNat + i.length ≤ 256) :
    execTwoRegisters i a b h s = .next (match instrFault i s with
      | some (c, f) => s.faultedWith c i.opcode f
      | none => (h (regOf a) (regOf b) s).fallThrough i.length) := by
  rw [instrFault_eq, if_neg (Nat.not_lt.mpr hl), hr]
  simp only [execTwoRegisters, fetchInside_ok hl, registerOperand_eq]
  by_cases ha : isRegister a = true
  · by_cases hb : isRegister b = true
    · by_cases h2 : 255 < s.pc.toNat + i.length
      · simp [ha, hb, hn, h2, successorExists_error h2]; rfl
      · simp [ha, hb, hs, h2, successorExists_ok (Nat.not_lt.mp h2)]
    · simp [ha, hb]; rfl
  · simp [ha]; rfl

theorem execBranch_eq (i : Instr) (a : Byte) (taken : Bool) (s : State)
    (hr : i.registerOperands = [a]) (hn : needsSuccessor i s.fl = !taken) (hs : stackFault i s = none)
    (hl : s.pc.toNat + i.length ≤ 256) :
    execBranch i a taken s = .next (match instrFault i s with
      | some (c, f) => s.faultedWith c i.opcode f
      | none => if taken then s.jumpTo (s.readReg (regOf a)) else s.fallThrough i.length) := by
  rw [instrFault_eq, if_neg (Nat.not_lt.mpr hl), hr]
  simp only [execBranch, fetchInside_ok hl, registerOperand_eq]
  by_cases ha : isRegister a = true
  · cases taken
    · by_cases h2 : 255 < s.pc.toNat + i.length
      · simp [ha, hn, h2, successorExists_error h2]; rfl
      · simp [ha, hs, h2, successorExists_ok (Nat.not_lt.mp h2)]
    · simp [ha, hn, hs]
  · simp [ha]; rfl

theorem needsSuccessor_jeq (a fl : Byte) : needsSuccessor (.jeq a) fl = !eqf fl := by
  rcases Nat.mod_two_eq_zero_or_one fl.toNat with h | h <;> simp [needsSuccessor, eqf_eq_decide_odd, h]

theorem needsSuccessor_jne (a fl : Byte) : needsSuccessor (.jne a) fl = eqf fl := by
  rcases Nat.mod_two_eq_zero_or_one fl.toNat with h | h <;> simp [needsSuccessor, eqf_eq_decide_odd, h]

/-- SP after x[a] is written: the value POP increments (R78). -/
theorem popped_sp (s : State) {a : Byte} (v : Byte) (ha : isRegister a = true) :
    (s.writeReg (regOf a) v).sp = if a.toNat = s.spIndex.val then v else s.sp := by
  rw [State.sp_writeReg]
  have : s.spIndex = regOf a ↔ a.toNat = s.spIndex.val := by
    rw [toNat_regOf ha, Fin.ext_iff, eq_comm]
  simp [this]

/-- The one-register instructions that need their successor: what follows their four checks. -/
theorem oneRegister_eq (i : Instr) (a : Byte) (s : State) (r : RegIdx → Except Raised State)
    (hr : i.registerOperands = [a]) (hn : needsSuccessor i s.fl = true)
    (hh : isRegister a = true → r (regOf a) = match stackFault i s with
      | some (c, f) => .error ⟨if c = 5 then .stackOverflow else .stackUnderflow, f⟩
      | none => .ok (effect i s))
    (hc : ∀ c f, stackFault i s = some (c, f) → c = 5 ∨ c = 6) :
    finish i.opcode s (do
        let ra ← registerOperand a
        successorExists i.length s
        r ra) =
      .next (match (match i.registerOperands.find? (fun b => !isRegister b) with
        | some b => some (3, b)
        | none =>
          if needsSuccessor i s.fl = true ∧ 255 < s.pc.toNat + i.length then some (4, u8 i.length) else stackFault i s) with
        | some (c, f) => s.faultedWith c i.opcode f
        | none => effect i s) := by
  rw [hr, hn, registerOperand_eq]
  by_cases ha : isRegister a = true
  · by_cases h2 : 255 < s.pc.toNat + i.length
    · simp [ha, h2, successorExists_error h2]; rfl
    · have hh := hh ha
      rcases hs : stackFault i s with _ | ⟨c, f⟩
      · simp only [hs] at hh
        simp [ha, h2, successorExists_ok (Nat.not_lt.mp h2), hh]
      · simp only [hs] at hh
        rcases hc c f hs with rfl | rfl
        · simp [ha, h2, successorExists_ok (Nat.not_lt.mp h2), hh]; rfl
        · simp [ha, h2, successorExists_ok (Nat.not_lt.mp h2), hh]; rfl
  · simp [ha]; rfl

/-- The inversion of `exec`, for every instruction and every state. -/
theorem exec_eq (i : Instr) (s : State) : exec i s = .next (outcome i s) := by
  by_cases h1 : 256 < s.pc.toNat + i.length
  · rw [exec_overrun i s h1, outcome, instrFault_eq, if_pos h1]
  have hl := Nat.not_lt.mp h1
  cases i
  case mul a b => simpa [exec, execMul, outcome, effect] using execTwoRegisters_eq (.mul a b) a b (aluHandler .mul) s rfl rfl rfl hl
  case add a b => simpa [exec, execAdd, outcome, effect] using execTwoRegisters_eq (.add a b) a b (aluHandler .add) s rfl rfl rfl hl
  case cmp a b => simpa [exec, execCmp, outcome, effect] using execTwoRegisters_eq (.cmp a b) a b compareHandler s rfl rfl rfl hl
  case jeq a => simpa [exec, execJeq, outcome, effect] using execBranch_eq (.jeq a) a (eqf s.fl) s rfl (needsSuccessor_jeq a s.fl) rfl hl
  case jne a =>
    have := execBranch_eq (.jne a) a (!eqf s.fl) s rfl (by simp [needsSuccessor_jne]) rfl hl
    rw [exec, execJne, this, outcome]
    cases h : eqf s.fl <;> simp [effect, h]
  all_goals
    rw [outcome, instrFault_eq, if_neg h1]
    simp only [exec, execHlt, execLdi, execPrn, execPush, execPop, execCall, execRet, execJmp, fetchInside_ok hl,
      passed_bind, passed_pure]
  case hlt => simp [Instr.registerOperands, needsSuccessor, stackFault]; rfl
  case ret =>
    by_cases h : s.sp.toNat = 255
    · simp [incrementSp_error h, Instr.registerOperands, needsSuccessor, stackFault, h]; rfl
    · simp [incrementSp_ok (show s.sp.toNat < 255 by have := s.sp.isLt; omega), Instr.registerOperands, needsSuccessor,
        stackFault, h]; rfl
  case jmp a =>
    rw [registerOperand_eq]
    by_cases ha : isRegister a = true
    · simp [ha, Instr.registerOperands, needsSuccessor, stackFault]; rfl
    · simp [ha, Instr.registerOperands]; rfl
  case ldi a imm =>
    exact oneRegister_eq (.ldi a imm) a s (fun ra => .ok ((s.writeReg ra imm).fallThrough (Instr.ldi a imm).length)) rfl rfl
      (fun _ => by simp [stackFault, effect]) (by simp [stackFault])
  case prn a =>
    exact oneRegister_eq (.prn a) a s (fun ra => .ok ((s.emit (s.readReg ra)).fallThrough (Instr.prn a).length)) rfl rfl
      (fun _ => by simp [stackFault, effect]) (by simp [stackFault])
  case push a =>
    refine oneRegister_eq (.push a) a s (fun ra => do
      let t ← decrementSp s
      return (t.store t.sp (t.readReg ra)).fallThrough (Instr.push a).length) rfl rfl (fun _ => ?_) (by simp [stackFault])
    by_cases h : s.sp.toNat = 0
    · simp [stackFault, h, decrementSp_error h]
    · simp [stackFault, h, decrementSp_ok (Nat.pos_of_ne_zero h), effect]
  case call a =>
    refine oneRegister_eq (.call a) a s (fun ra => do
      let t ← decrementSp s
      return (t.store t.sp (u8 (s.pc.toNat + 2))).jumpTo (t.readReg ra)) rfl rfl (fun _ => ?_) (by simp [stackFault])
    by_cases h : s.sp.toNat = 0
    · simp [stackFault, h, decrementSp_error h]
    · simp [stackFault, h, decrementSp_ok (Nat.pos_of_ne_zero h), effect]
  case pop a =>
    refine oneRegister_eq (.pop a) a s (fun ra => do
      let t ← incrementSp (s.writeReg ra (s.load s.sp))
      return t.fallThrough (Instr.pop a).length) rfl rfl (fun ha => ?_) (by simp [stackFault])
    have hsp := popped_sp s (s.load s.sp) ha
    by_cases h : (s.writeReg (regOf a) (s.load s.sp)).sp.toNat = 255
    · simp [stackFault, ← hsp, h, incrementSp_error h]
    · have hlt := (s.writeReg (regOf a) (s.load s.sp)).sp.isLt
      simp [stackFault, ← hsp, h, incrementSp_ok (show (s.writeReg (regOf a) (s.load s.sp)).sp.toNat < 255 by omega), effect]

end Sys2Proof.Machine
end

