-- ==== Sys2Proof/Tests/Slice0.lean ====
section
/-! SUPPORT. Tests with expected results from spec/95_test_vectors.md and from the encodings of R52, and a witness for the hypotheses of every statement. -/

namespace Sys2Proof.Tests

open Sys2Proof.Machine

/-! ## WellFormed smoke: the check refuses each ill-formed operand (R51) -/

theorem test_wf_accepts_r7 : (Instr.mul 0 7).wf = true := by decide
theorem test_wf_refuses_operand_a : (Instr.ldi 8 0).wf = false := by decide
theorem test_wf_refuses_operand_b : (Instr.cmp 0 8).wf = false := by decide
theorem test_wf_ignores_immediate : (Instr.ldi 0 255).wf = true := by decide

/-! ## Decoding: each word written out bit by bit from R52's binary column, operand bytes above the opcode byte -/

theorem test_decode_hlt : decodeTableWord 8 0b00000001 = some .hlt := by decide
theorem test_decode_ldi : decodeTableWord 24 0b110010000000001110011001 = some (.ldi 3 200) := by decide
theorem test_decode_prn : decodeTableWord 16 0b0000010101000011 = some (.prn 5) := by decide
theorem test_decode_mul : decodeTableWord 24 0b000000100000000110101010 = some (.mul 1 2) := by decide
theorem test_decode_pop : decodeTableWord 16 0b0000011001001100 = some (.pop 6) := by decide
theorem test_decode_push : decodeTableWord 16 0b0000011101001101 = some (.push 7) := by decide
theorem test_decode_call : decodeTableWord 16 0b0000000101001000 = some (.call 1) := by decide
theorem test_decode_ret : decodeTableWord 8 0b00001001 = some .ret := by decide
theorem test_decode_add : decodeTableWord 24 0b000000010000001010101000 = some (.add 2 1) := by decide
theorem test_decode_jmp : decodeTableWord 16 0b0000001101010000 = some (.jmp 3) := by decide
theorem test_decode_jeq : decodeTableWord 16 0b0000001001010001 = some (.jeq 2) := by decide
theorem test_decode_jne : decodeTableWord 16 0b0000010001010010 = some (.jne 4) := by decide
theorem test_decode_cmp : decodeTableWord 24 0b000000110000010010100000 = some (.cmp 4 3) := by decide
/-- The operand bytes are zero where the table gives the row no bits for them. -/
theorem test_decode_opcode_byte_alone : decodeTableWord 8 0x99 = some (.ldi 0 0) := by decide
theorem test_decode_rejects_illegal : decode [0xC0, 1, 2] = .error (.illegalOpcode 0xC0) := by decide
theorem test_decode_rejects_truncated : decode [0xA8, 1] = .error (.truncated 0xA8) := by decide
theorem test_decode_rejects_empty : decode [] = .error .empty := by decide
theorem test_encode_add : encode (.add 0 1) = [0xA8, 0x00, 0x01] := by decide
theorem test_assembly_ldi : (Instr.ldi 0 200).assembly = some "LDI R0, 200" := by decide
theorem test_assembly_mul : (Instr.mul 0 1).assembly = some "MUL R0, R1" := by decide

/-! ## Helpers: a start state of spec/95_test_vectors.md, and a look at the state after one step -/

/-- The reset state with bytes placed at the pc. -/
def start (pc : Byte) (bytes : List Byte) : State := { State.placeBytes pc.toNat bytes State.reset with pc := pc }

/-- The state with general registers set. -/
def withRegs (s : State) (l : List (RegIdx × Byte)) : State := l.foldl (fun s p => s.writeReg p.1 p.2) s

/-- The next state of a result. -/
def next? : Result → Option State
  | .next t => some t
  | .fault _ => none
  | .refused _ => none

/-- One field of the state after one step. -/
def after {α : Type} (s : State) (f : State → α) : Option α := (next? (step s)).map f

/-- Run state and fault record, as `FAULT(c, pc, op, info)` is read in spec/95_test_vectors.md. -/
def record (s : State) : RunState × Byte × Byte × Byte × Byte :=
  (s.runState, s.faultCause, s.faultPc, s.faultOpcode, s.faultInfo)

/-! ## One step per instruction, from spec/95_test_vectors.md -/

/-- V-HLT-1. -/
theorem test_hlt : after (start 0 [0x01, 0xFF, 0xFF]) (fun t => (t.pc, t.runState)) = some (0x01, .halted) := by decide
/-- V-HLT-2. -/
theorem test_hlt_wraps : after (start 0xFF [0x01]) (fun t => (t.pc, t.runState)) = some (0x00, .halted) := by decide
/-- V-LDI-2. -/
theorem test_ldi_sp : after (start 0 [0x99, 0x07, 0x80]) (fun t => (t.sp, t.pc)) = some (0x80, 3) := by decide
/-- V-LDI-3. -/
theorem test_ldi_bad_register : after (start 0 [0x99, 0x08, 0x05]) record = some (.faulted, 3, 0x00, 0x99, 8) := by decide
/-- V-PRN-1. -/
theorem test_prn : after (withRegs (start 9 [0x43, 0x00]) [(0, 72)]) (fun t => (t.output, t.pc)) = some ([72], 11) := by decide
/-- V-RNG-3. -/
theorem test_prn_pc_overflow : after (start 0xFE [0x43, 0x00]) (fun t => (record t, t.output)) = some ((.faulted, 4, 0xFE, 0x43, 2), []) := by decide
/-- V-ALU-3. -/
theorem test_mul : after (withRegs (start 0 [0xAA, 0, 1]) [(0, 255), (1, 255)]) (fun t => t.readReg 0) = some 1 := by decide
/-- V-ALU-6. -/
theorem test_mul_square : after (withRegs (start 0 [0xAA, 2, 2]) [(2, 20)]) (fun t => t.readReg 2) = some 0x90 := by decide
/-- V-ALU-7. -/
theorem test_add : after (withRegs (start 0 [0xA8, 0, 1]) [(0, 200), (1, 100)]) (fun t => t.readReg 0) = some 44 := by decide
/-- V-ALU-13. -/
theorem test_add_operand_a_first : after (start 0 [0xA8, 8, 9]) record = some (.faulted, 3, 0x00, 0xA8, 8) := by decide
/-- V-CMP-4. -/
theorem test_cmp_unsigned : after (withRegs (start 0 [0xA0, 0, 1]) [(0, 128), (1, 127)]) State.fl = some 0x02 := by decide
/-- V-CMP-5. -/
theorem test_cmp_not_cumulative : after { withRegs (start 0 [0xA0, 0, 1]) [(1, 255)] with fl := 0x02 } State.fl = some 0x04 := by decide
/-- V-STK-1. -/
theorem test_push : after (withRegs (start 0x10 [0x4D, 0]) [(0, 0x2A)]) (fun t => (t.sp, t.load 0xF3, t.pc)) = some (0xF3, 0x2A, 0x12) := by decide
/-- V-STK-3. -/
theorem test_push_sp : after (start 0x10 [0x4D, 7]) (fun t => (t.sp, t.load 0xF3)) = some (0xF3, 0xF3) := by decide
/-- V-STK-2. -/
theorem test_pop : after (withRegs ((start 0x10 [0x4C, 1]).store 0xF3 0x2A) [(7, 0xF3)]) (fun t => (t.readReg 1, t.sp, t.pc)) = some (0x2A, 0xF4, 0x12) := by decide
/-- V-STK-4. -/
theorem test_pop_sp : after (withRegs ((start 0x10 [0x4C, 7]).store 0xF3 0x10) [(7, 0xF3)]) State.sp = some 0x11 := by decide
/-- V-CTL-1. -/
theorem test_call : after (withRegs (start 6 [0x48, 1]) [(1, 0x0B)]) (fun t => (t.sp, t.load 0xF3, t.pc)) = some (0xF3, 0x08, 0x0B) := by decide
/-- V-CTL-3. -/
theorem test_call_sp : after (start 0x10 [0x48, 7]) (fun t => (t.sp, t.load 0xF3, t.pc)) = some (0xF3, 0x12, 0xF3) := by decide
/-- V-CTL-2. -/
theorem test_ret : after (withRegs ((start 0x0E [0x09]).store 0xF3 0x08) [(7, 0xF3)]) (fun t => (t.pc, t.sp)) = some (0x08, 0xF4) := by decide
/-- V-CTL-5. -/
theorem test_ret_underflow : after (withRegs (start 0x10 [0x09]) [(7, 0xFF)]) record = some (.faulted, 6, 0x10, 0x09, 255) := by decide
/-- V-RNG-4. -/
theorem test_jmp_at_top : after (withRegs (start 0xFE [0x50, 1]) [(1, 0x20)]) (fun t => (t.pc, t.runState)) = some (0x20, .running) := by decide
/-- V-CTL-8. -/
theorem test_jeq_taken : after { withRegs (start 0x0C [0x51, 2]) [(2, 0x10)] with fl := 0x01 } State.pc = some 0x10 := by decide
/-- V-CTL-9. -/
theorem test_jeq_not_taken : after { withRegs (start 0x0C [0x51, 2]) [(2, 0x10)] with fl := 0x04 } State.pc = some 0x0E := by decide
/-- V-CTL-11. -/
theorem test_jne_taken : after { withRegs (start 0x14 [0x52, 3]) [(3, 0x0C)] with fl := 0x02 } State.pc = some 0x0C := by decide
/-- V-CTL-12. -/
theorem test_jne_not_taken : after { withRegs (start 0x14 [0x52, 3]) [(3, 0x0C)] with fl := 0x01 } State.pc = some 0x16 := by decide

/-! ## The step, faults, reset, ports -/

/-- V-PRI-1: illegal before overrun. -/
theorem test_illegal_first : after (start 0xFF [0xC0]) record = some (.faulted, 1, 0xFF, 0xC0, 0) := by decide
/-- V-PRI-2: overrun before bad register. -/
theorem test_overrun_before_register : after (start 0xFE [0xA8, 0x09]) record = some (.faulted, 2, 0xFE, 0xA8, 3) := by decide
/-- V-PRI-3: bad register before pc overflow and stack. -/
theorem test_register_before_pc : after (withRegs (start 0xFE [0x4D, 9]) [(7, 0)]) record = some (.faulted, 3, 0xFE, 0x4D, 9) := by decide
/-- V-PRI-4: pc overflow before stack overflow. -/
theorem test_pc_before_stack : after (withRegs (start 0xFE [0x4D, 0]) [(7, 0)]) record = some (.faulted, 4, 0xFE, 0x4D, 2) := by decide
/-- V-HLT-3. -/
theorem test_halted_stays : next? (step { start 0x0C [0x99] with runState := .halted }) = some { start 0x0C [0x99] with runState := .halted } := by decide
/-- V-CYC-2: reset() after FAULT(3, ...). -/
theorem test_reset_after_fault : (State.faultedWith (start 0 [0x99, 8]) 3 0x99 8).afterReset = start 0 [0x99, 8] := by decide
/-- R29, S9. -/
theorem test_reset_sp : (State.reset.sp, State.reset.pc, State.reset.readReg 0) = (0xF4, 0x00, 0x00) := by decide
/-- V-CYC-4, P6: a PUSH that rewrites the next opcode byte; the fetch sees it. -/
theorem test_push_into_code : after (withRegs (start 6 [0x4D, 0]) [(0, 1), (7, 9)]) State.fetched = some (.ok .hlt) := by decide
/-- The word of LDI R1, 9 (`99 01 09`) runs as the first instruction after reset. -/
theorem test_with_fetch_word : after (State.reset.withFetchWord 24 0x090199) (fun t => (t.readReg 1, t.pc)) = some (9, 3) := by decide
/-- R32, R37: the transactions of V-STK-1. -/
theorem test_push_events : stepEvents (withRegs (start 0x10 [0x4D, 0]) [(0, 0x2A)]) =
    [.memRead 0x10, .memRead 0x11, .memRead 0x12, .memWrite 0xF3 0x2A] := by decide
/-- R78: a POP that underflows (V-STK-8) has read memory at SP. -/
theorem test_pop_underflow_events : stepEvents (withRegs (start 0x10 [0x4C, 0]) [(7, 0xFF)]) =
    [.memRead 0x10, .memRead 0x11, .memRead 0x12, .memRead 0xFF] := by decide
/-- The canonical form: a zero written over a byte removes its entry. -/
theorem test_write_fill : Memory.write (Memory.write (Memory.write [] 5 1) 3 2) 5 0 = [(3, 2)] := by decide

/-! ## Witnesses: a state and operands that meet the hypotheses of each statement, each clause at a boundary of its range -/

/-- The reset state at a pc. -/
def atPc (pc : Byte) : State := { State.reset with pc := pc }

/-- A stopped, a halted and a stack-boundary state. -/
def haltedState : State := { State.reset with runState := .halted }
def faultedState : State := State.reset.faultedWith 1 0 0
def atSp (v : Byte) : State := State.reset.writeSp v

theorem witness_DecodeIsInverseOfEncode : decode [0xAA, 0, 7, 9] = .ok (.mul 0 7, [9]) ∧ [0xAA, 0, 7, 9] = encode (.mul 0 7) ++ [9] := by decide
theorem witness_LengthComesFromOpcodeBits : (0xC0 : Byte).toNat / 64 = 3 ∧ (0xFF : Byte).toNat / 64 = 3 := by decide
theorem witness_UnusedOperandBytesAreIgnored : (0x3F : Byte).toNat / 64 = 0 ∧ (0x40 : Byte).toNat / 64 = 1 ∧ (0x7F : Byte).toNat / 64 = 1 := by decide
theorem witness_StepRunsDecodedInstruction : (start 0xFF [0x01]).runState = .running ∧
    decode [(start 0xFF [0x01]).load 0xFF, (start 0xFF [0x01]).load (u8 (0xFF + 1)), (start 0xFF [0x01]).load (u8 (0xFF + 2))] = .ok (.hlt, [0, 0]) := by decide
theorem witness_UnrecognizedOpcodeFaults : State.reset.runState = .running ∧
    State.reset.load State.reset.pc ∉ ([0x01, 0x99, 0x43, 0xAA, 0x4C, 0x4D, 0x48, 0x09, 0xA8, 0x50, 0x51, 0x52, 0xA0] : List Byte) ∧
    (start 0 [0xA0]).load 0 ∈ ([0x01, 0x99, 0x43, 0xAA, 0x4C, 0x4D, 0x48, 0x09, 0xA8, 0x50, 0x51, 0x52, 0xA0] : List Byte) := by decide
theorem witness_StepRaisesFirstFaultInPriorityOrder :
    stepFault (atPc 0xFF) = some (1, 0) ∧ stepFault (start 0xFF [0x99]) = some (2, 3) ∧
    stepFault (start 0xFD [0xA8, 0, 8]) = some (3, 8) ∧ stepFault (start 0xFD [0xA8, 0, 7]) = some (4, 3) ∧
    stepFault (withRegs (start 0 [0x4D, 0]) [(7, 0)]) = some (5, 0) ∧ stepFault (withRegs (start 0 [0x09]) [(7, 255)]) = some (6, 255) ∧
    stepFault (start 0xFF [0x01]) = none := by decide
theorem witness_FaultsArePrecise : State.reset.runState = .running ∧ after State.reset State.runState = some .faulted := by decide
theorem witness_StoppedStepChangesNothing : haltedState.runState = .halted ∧ faultedState.runState = .faulted := by decide
theorem witness_OnlyResetLeavesAStoppedState : haltedState.runState ≠ .running ∧ faultedState.runState ≠ .running ∧
    Transaction.reset ∉ [Transaction.step, Transaction.step] := by decide

/-- The three clauses every register instruction of length 3 has: overrun, bad register, pc overflow; and completion. -/
theorem witness_LdiLoadsImmediate : (atPc 254).pc.toNat ≥ 254 ∧ ((atPc 253).pc.toNat ≤ 253 ∧ (8 : Byte).toNat > 7) ∧
    ((atPc 253).pc.toNat = 253 ∧ (7 : Byte).toNat ≤ 7) ∧ ((7 : Byte).toNat = (7 : RegIdx).val ∧ (atPc 252).pc.toNat ≤ 252) := by decide
theorem witness_MulMultipliesModulo256 : (atPc 254).pc.toNat ≥ 254 ∧ ((atPc 253).pc.toNat ≤ 253 ∧ (8 : Byte).toNat > 7) ∧
    ((atPc 253).pc.toNat ≤ 253 ∧ (7 : Byte).toNat ≤ 7 ∧ (255 : Byte).toNat > 7) ∧ ((atPc 253).pc.toNat = 253 ∧ (7 : Byte).toNat ≤ 7) ∧
    ((0 : Byte).toNat = (0 : RegIdx).val ∧ (7 : Byte).toNat = (7 : RegIdx).val ∧ (atPc 252).pc.toNat ≤ 252) ∧
    (next? (exec (.mul 0 7) (atPc 252))).map State.pc = some 255 := by decide
theorem witness_AddAddsModulo256 : (atPc 254).pc.toNat ≥ 254 ∧ ((atPc 253).pc.toNat ≤ 253 ∧ (8 : Byte).toNat > 7) ∧
    ((atPc 253).pc.toNat ≤ 253 ∧ (7 : Byte).toNat ≤ 7 ∧ (255 : Byte).toNat > 7) ∧ ((atPc 253).pc.toNat = 253 ∧ (7 : Byte).toNat ≤ 7) ∧
    ((0 : Byte).toNat = (0 : RegIdx).val ∧ (7 : Byte).toNat = (7 : RegIdx).val ∧ (atPc 252).pc.toNat ≤ 252) ∧
    (next? (exec (.add 0 7) (atPc 252))).map State.pc = some 255 := by decide
theorem witness_CmpWritesFlags : (atPc 254).pc.toNat ≥ 254 ∧ ((atPc 253).pc.toNat ≤ 253 ∧ (8 : Byte).toNat > 7) ∧
    ((atPc 253).pc.toNat ≤ 253 ∧ (7 : Byte).toNat ≤ 7 ∧ (255 : Byte).toNat > 7) ∧ ((atPc 253).pc.toNat = 253 ∧ (7 : Byte).toNat ≤ 7) ∧
    (((atPc 252).readReg 0).toNat = ((atPc 252).readReg 1).toNat ∧ ((atPc 252).readReg 7).toNat > ((atPc 252).readReg 0).toNat ∧
      ((atPc 252).readReg 0).toNat < ((atPc 252).readReg 7).toNat) := by decide
theorem witness_PrnEmitsRegister : (atPc 255).pc.toNat = 255 ∧ ((atPc 254).pc.toNat ≤ 254 ∧ (8 : Byte).toNat > 7) ∧
    ((atPc 254).pc.toNat = 254 ∧ (7 : Byte).toNat ≤ 7) ∧ ((7 : Byte).toNat = (7 : RegIdx).val ∧ (atPc 253).pc.toNat ≤ 253) := by decide
theorem witness_PushStoresBelowTheStackTop : (atPc 255).pc.toNat = 255 ∧ ((atPc 254).pc.toNat ≤ 254 ∧ (8 : Byte).toNat > 7) ∧
    ((atPc 254).pc.toNat = 254 ∧ (7 : Byte).toNat ≤ 7) ∧ ((atSp 0).pc.toNat ≤ 253 ∧ (atSp 0).sp.toNat = 0) ∧
    ((7 : Byte).toNat = (7 : RegIdx).val ∧ (atPc 253).pc.toNat ≤ 253 ∧ (atSp 1).sp.toNat > 0) ∧
    ((0 : RegIdx) ≠ State.reset.spIndex ∧ (7 : RegIdx) = State.reset.spIndex) := by decide
theorem witness_PopLoadsFromTheStackTop : (atPc 255).pc.toNat = 255 ∧ ((atPc 254).pc.toNat ≤ 254 ∧ (8 : Byte).toNat > 7) ∧
    ((atPc 254).pc.toNat = 254 ∧ (7 : Byte).toNat ≤ 7) ∧
    ((0 : Byte).toNat = (0 : RegIdx).val ∧ (0 : RegIdx) ≠ (atSp 255).spIndex ∧ (atSp 255).sp.toNat = 255 ∧ (atSp 254).sp.toNat < 255) ∧
    ((7 : Byte).toNat = (atSp 9).spIndex.val ∧ (((atSp 9).store 9 255).load ((atSp 9).store 9 255).sp).toNat = 255 ∧
      (((atSp 9).store 9 254).load ((atSp 9).store 9 254).sp).toNat < 255) := by decide
theorem witness_CallPushesReturnAddress : (atPc 255).pc.toNat = 255 ∧ ((atPc 254).pc.toNat ≤ 254 ∧ (8 : Byte).toNat > 7) ∧
    ((atPc 254).pc.toNat = 254 ∧ (7 : Byte).toNat ≤ 7) ∧ ((atSp 0).pc.toNat ≤ 253 ∧ (atSp 0).sp.toNat = 0) ∧
    ((7 : Byte).toNat = (7 : RegIdx).val ∧ (atPc 253).pc.toNat ≤ 253 ∧ (atSp 1).sp.toNat > 0) ∧
    ((0 : RegIdx) ≠ State.reset.spIndex ∧ (7 : RegIdx) = State.reset.spIndex) := by decide
theorem witness_RetPopsTheReturnAddress : (atSp 255).sp.toNat = 255 ∧ (atSp 254).sp.toNat < 255 := by decide
theorem witness_JmpSetsPc : (atPc 255).pc.toNat = 255 ∧ ((atPc 254).pc.toNat ≤ 254 ∧ (8 : Byte).toNat > 7) ∧
    ((7 : Byte).toNat = (7 : RegIdx).val ∧ (atPc 254).pc.toNat ≤ 254) := by decide
/-- JEQ and JNE share their clauses, with the parities of FL exchanged. -/
theorem witness_JeqJumpsWhenEqual : (atPc 255).pc.toNat = 255 ∧ ((atPc 254).pc.toNat ≤ 254 ∧ (8 : Byte).toNat > 7) ∧
    ((atPc 254).pc.toNat = 254 ∧ (7 : Byte).toNat ≤ 7 ∧ (atPc 254).fl.toNat % 2 = 0) ∧
    ((7 : Byte).toNat = (7 : RegIdx).val ∧ (atPc 254).pc.toNat ≤ 254 ∧ ((atPc 254).writeFl 1).fl.toNat % 2 = 1) ∧
    ((7 : Byte).toNat ≤ 7 ∧ (atPc 253).pc.toNat ≤ 253 ∧ (atPc 253).fl.toNat % 2 = 0) := by decide
theorem witness_JneJumpsWhenNotEqual : (atPc 255).pc.toNat = 255 ∧ ((atPc 254).pc.toNat ≤ 254 ∧ (8 : Byte).toNat > 7) ∧
    ((atPc 254).pc.toNat = 254 ∧ (7 : Byte).toNat ≤ 7 ∧ ((atPc 254).writeFl 1).fl.toNat % 2 = 1) ∧
    ((7 : Byte).toNat = (7 : RegIdx).val ∧ (atPc 254).pc.toNat ≤ 254 ∧ (atPc 254).fl.toNat % 2 = 0) ∧
    ((7 : Byte).toNat ≤ 7 ∧ (atPc 253).pc.toNat ≤ 253 ∧ ((atPc 253).writeFl 1).fl.toNat % 2 = 1) := by decide

theorem witness_CmpSetsExactlyOneFlag : (atPc 252).pc.toNat ≤ 252 ∧ (atPc 0).pc.toNat ≤ 252 ∧
    (atPc 252).readReg 0 = (atPc 0).readReg 0 ∧ (atPc 252).readReg 7 = (atPc 0).readReg 7 := by decide
theorem witness_OnlyCmpWritesFl : (next? (exec (.cmp 0 7) State.reset)).map State.fl = some 0x04 ∧
    instrFault (.cmp 0 7) State.reset = none ∧ State.reset.fl.toNat < 8 ∧
    (next? (exec (.add 0 7) State.reset)).map State.fl = some State.reset.fl := by decide
theorem witness_OnlyPushAndCallWriteMemory :
    (next? (exec (.push 7) State.reset)).map (fun t => t.load 0xF3) = some 0xF3 ∧ State.reset.load 0xF3 ≠ 0xF3 := by decide
theorem witness_RegistersAreReachedAsTabulated : (next? (exec (.pop 0) State.reset)).map (fun t => t.sp) = some 0xF5 ∧
    (0 : RegIdx) ∉ registersRead (.pop 0) State.reset ∧ (2 : RegIdx) ∉ registersRead (.jeq 2) State.reset := by decide
theorem witness_OnlyPrnEmits : (next? (exec (.prn 7) State.reset)).map State.output = some [0xF4] := by decide
theorem witness_RunStateChangesOnlyByHltOrFault : instrFault (.ldi 8 0) State.reset ≠ none ∧ instrFault .hlt (atPc 255) = none ∧
    instrFault (.ldi 7 0) (atPc 252) = none := by decide
theorem witness_FallThroughNeverWraps : (next? (exec .hlt (atPc 255))).map State.pc = some 0 ∧
    (next? (exec (.ldi 0 0) (atPc 252))).map State.pc = some 255 ∧ instrFault (.ldi 0 0) (atPc 252) = none ∧
    (atPc 253).fl.toNat % 2 = 0 ∧ instrFault (.jeq 0) (atPc 253) = none ∧
    instrFault (.jne 0) ((atPc 253).writeFl 1) = none ∧ ((atPc 253).writeFl 1).fl.toNat % 2 = 1 := by decide
theorem witness_SpIsANormalRegister : (7 : Byte).toNat = (7 : RegIdx).val ∧ (atPc 252).pc.toNat ≤ 252 := by decide
theorem witness_MemoriesThatReadAlikeAreEqual : Memory.wf [(0, 1), (255, 2)] = true ∧ Memory.wf [(256, 1)] = false ∧
    Memory.wf [(3, 0)] = false ∧ Memory.wf [(3, 1), (3, 2)] = false := by decide
theorem witness_FetchSeesPushedByte : (0 : Byte).toNat = (0 : RegIdx).val ∧ (0 : RegIdx) ≠ (atSp 1).spIndex ∧ (atPc 253).pc.toNat ≤ 253 ∧
    (atSp 1).sp.toNat > 0 ∧ ((atPc 254).pc.toNat + 2) % 256 = (atSp 1).sp.toNat - 1 := by decide
theorem witness_StepTransactionsInOrder : haltedState.runState ≠ .running ∧ State.reset.runState = .running := by decide
theorem witness_InstructionTransactionsAsTabulated : instrFault (.pop 0) State.reset = none ∧ instrFault .ret State.reset = none ∧
    instrFault (.push 0) (atSp 1) = none ∧ instrFault (.call 0) (atSp 1) = none ∧ instrFault (.prn 7) (atPc 253) = none ∧
    instrFault (.call 0) (atSp 0) = some (5, 0) ∧ (0 : Byte).toNat = (0 : RegIdx).val ∧ (0 : RegIdx) ≠ (atSp 1).spIndex ∧
    instrFault (.push 7) (atSp 1) = none ∧ (7 : RegIdx) = (atSp 1).spIndex ∧ instrFault (.pop 0) (atSp 255) = some (6, 255) ∧
    instrFault (.pop 8) (atSp 255) = some (3, 8) ∧ instrFault .ret (atSp 255) = some (6, 255) := by decide
theorem witness_TransactionsAccountForMemoryAndOutput : after (withRegs (start 0x10 [0x4D, 0]) [(0, 0x2A)]) (fun t => t.load 0xF3) = some 0x2A := by decide
/-- The two memories differ at 0x80, which the step (PUSH R0 at 0x10) does not read. -/
theorem witness_StepDependsOnlyOnBytesItReads :
    (stepEvents (start 0x10 [0x4D, 0])).all (fun e => match e with
      | .memRead adr => (start 0x10 [0x4D, 0]).load adr == Memory.read ((start 0x10 [0x4D, 0]).store 0x80 9).mem adr
      | .memWrite _ _ => true
      | .emit _ => true) = true ∧
    after (start 0x10 [0x4D, 0]) State.pc = some 0x12 ∧ (start 0x10 [0x4D, 0]).mem ≠ ((start 0x10 [0x4D, 0]).store 0x80 9).mem := by decide
theorem witness_PopAfterPushRestoresRegisters : (0 : Byte).toNat = (0 : RegIdx).val ∧ (0 : RegIdx) ≠ (atSp 1).spIndex ∧
    (atPc 251).pc.toNat ≤ 251 ∧ (atSp 1).sp.toNat > 0 := by decide
theorem witness_RetAfterCallReturns : (7 : Byte).toNat ≤ 7 ∧ (atPc 253).pc.toNat ≤ 253 ∧ (atSp 1).sp.toNat > 0 := by decide
/-- V-CYC-5, at the last address it can stand at. -/
theorem witness_JmpToItselfNeverEnds : (withRegs (start 0xFE [0x50, 0]) [(0, 0xFE)]).runState = .running ∧
    (withRegs (start 0xFE [0x50, 0]) [(0, 0xFE)]).load 0xFE = 0x50 ∧
    ((withRegs (start 0xFE [0x50, 0]) [(0, 0xFE)]).load (u8 (0xFE + 1))).toNat = (0 : RegIdx).val ∧
    (withRegs (start 0xFE [0x50, 0]) [(0, 0xFE)]).readReg 0 = (withRegs (start 0xFE [0x50, 0]) [(0, 0xFE)]).pc := by decide
theorem witness_BootedProgramRunsAsAssembled : (assemble ([Instr.ldi 0 8] ++ Instr.prn 0 :: [Instr.hlt])).length ≤ 256 ∧
    { State.reset.boot (assemble ([Instr.ldi 0 8] ++ Instr.prn 0 :: [Instr.hlt])) with pc := 3 }.pc = u8 (assemble [.ldi 0 8]).length ∧
    (State.reset.boot (assemble ([Instr.ldi 0 8] ++ Instr.prn 0 :: [Instr.hlt]))).runState = .running := by decide
theorem witness_RunHasOneEnd : (next? (Host.Core.run core 1 (start 0 [0x01]))).map State.runState = some .halted ∧
    (next? (Host.Core.run core 1 State.reset)).map State.runState = some .faulted := by decide
/-- Reset, and below it the FAULTED state that its one step (on empty memory) reaches. -/
theorem witness_StepKeepsInvariant : State.reset.Inv ∧ (next? (step State.reset)).isSome = true :=
  ⟨⟨rfl, .inl rfl, fun _ => ⟨rfl, rfl, rfl, rfl⟩, fun h => nomatch h⟩, by decide⟩
theorem witness_ResetHasInvariant : Memory.wf faultedState.mem = true ∧ (next? (transact .reset faultedState)).isSome = true := by decide
theorem witness_TransactionsKeepInvariant : faultedState.Inv :=
  ⟨rfl, .inl rfl, fun h => absurd rfl h, fun _ => ⟨rfl, rfl, by decide⟩⟩

end Sys2Proof.Tests
end

/-! SUPPORT. What the effect of a completed instruction leaves of each part of the state, and the three things one step can do. -/

namespace Sys2Proof.Machine

/-! ### The effect of a completed instruction, part by part -/

/-- Only PRN appends to the output (R10). -/
theorem effect_output {i : Instr} (h : ∀ a, i ≠ .prn a) (s : State) : (effect i s).output = s.output := by
  cases i
  case prn a => exact absurd rfl (h a)
  case jeq | jne => simp only [effect]; split <;> rfl
  all_goals rfl

@[simp] theorem effect_output_prn (a : Byte) (s : State) :
    (effect (.prn a) s).output = s.output ++ [s.readReg (regOf a)] := rfl

/-- Only PUSH and CALL write memory (R32). -/
theorem effect_mem {i : Instr} (hpush : ∀ a, i ≠ .push a) (hcall : ∀ a, i ≠ .call a) (s : State) :
    (effect i s).mem = s.mem := by
  cases i
  case push a => exact absurd rfl (hpush a)
  case call a => exact absurd rfl (hcall a)
  case jeq | jne => simp only [effect]; split <;> rfl
  all_goals rfl

/-- PUSH writes one byte, at the SP it leaves (R77). -/
theorem effect_mem_push (a : Byte) (s : State) :
    ∃ v, (effect (.push a) s).mem = Memory.write s.mem (effect (.push a) s).sp v := ⟨_, rfl⟩

/-- CALL writes one byte, at the SP it leaves (R79). -/
theorem effect_mem_call (a : Byte) (s : State) :
    ∃ v, (effect (.call a) s).mem = Memory.write s.mem (effect (.call a) s).sp v := ⟨_, rfl⟩

/-- A completed instruction keeps the canonical form of memory. -/
theorem effect_mem_wf (i : Instr) {s : State} (h : Memory.wf s.mem = true) : Memory.wf (effect i s).mem = true := by
  cases i
  case push a => obtain ⟨v, hv⟩ := effect_mem_push a s; rw [hv]; exact Memory.wf_write _ _ _ h
  case call a => obtain ⟨v, hv⟩ := effect_mem_call a s; rw [hv]; exact Memory.wf_write _ _ _ h
  all_goals rw [effect_mem (by simp) (by simp)]; exact h

/-- Only CMP writes FL (R23). -/
theorem effect_fl {i : Instr} (h : ∀ a b, i ≠ .cmp a b) (s : State) : (effect i s).fl = s.fl := by
  cases i
  case cmp a b => exact absurd rfl (h a b)
  case jeq | jne => simp only [effect]; split <;> rfl
  all_goals rfl

@[simp] theorem effect_fl_cmp (a b : Byte) (s : State) :
    (effect (.cmp a b) s).fl = compareFlags (s.readReg (regOf a)) (s.readReg (regOf b)) := rfl

/-- A comparison sets exactly one flag (R75, R76). -/
theorem compareFlags_cases (a b : Byte) : compareFlags a b = 0x01 ∨ compareFlags a b = 0x02 ∨ compareFlags a b = 0x04 := by
  rcases Nat.lt_trichotomy a.toNat b.toNat with h | h | h
  · exact .inr (.inr (compareFlags_lt h))
  · exact .inl (compareFlags_eq h)
  · exact .inr (.inl (compareFlags_gt h))

/-- Only HLT writes the run state (R66). -/
theorem effect_runState {i : Instr} (h : i ≠ .hlt) (s : State) : (effect i s).runState = s.runState := by
  cases i
  case hlt => exact absurd rfl h
  case jeq | jne => simp only [effect]; split <;> rfl
  all_goals rfl

@[simp] theorem effect_runState_hlt (s : State) : (effect .hlt s).runState = .halted := rfl

/-- A completed instruction never leaves the machine FAULTED. -/
theorem effect_not_faulted (i : Instr) {s : State} (h : s.runState ≠ .faulted) : (effect i s).runState ≠ .faulted := by
  by_cases hi : i = .hlt
  · simp [hi]
  · rwa [effect_runState hi]

/-- A completed instruction writes neither the fault record nor SP_INDEX (R17, R86). -/
theorem effect_sameRecord (i : Instr) (s : State) : SameRecord s (effect i s) := by
  cases i
  case jeq | jne => simp only [effect]; split <;> exact ⟨rfl, rfl, rfl, rfl, rfl⟩
  all_goals exact ⟨rfl, rfl, rfl, rfl, rfl⟩

/-! ### Faults -/

theorem outcome_of_fault {i : Instr} {s : State} {c f : Byte} (h : instrFault i s = some (c, f)) :
    outcome i s = s.faultedWith c i.opcode f := by simp [outcome, h]

theorem outcome_of_noFault {i : Instr} {s : State} (h : instrFault i s = none) : outcome i s = effect i s := by
  simp [outcome, h]

/-- An instruction without a fault has passed check 3 (R62). -/
theorem isRegister_of_noFault {i : Instr} {s : State} (h : instrFault i s = none) {b : Byte}
    (hb : b ∈ i.registerOperands) : isRegister b = true := by
  rw [instrFault_eq] at h
  split at h
  · cases h
  · split at h
    · cases h
    · rename_i hfind
      simpa using List.find?_eq_none.mp hfind b hb

/-- The handler's own check sees the registers, the memory and SP_INDEX only. -/
theorem stackFault_congr (i : Instr) {s t : State} (hregs : t.regs = s.regs) (hmem : t.mem = s.mem)
    (hsp : t.spIndex = s.spIndex) : stackFault i t = stackFault i s := by
  have hsp' : t.sp = s.sp := by rw [State.sp, hsp, State.readReg_congr hregs, State.sp]
  cases i <;> simp only [stackFault, hsp', hsp, State.load_congr hmem]

/-- The fault of an instruction does not depend on the run state, the fault record or the output. -/
theorem instrFault_congr (i : Instr) {s t : State} (hpc : t.pc = s.pc) (hfl : t.fl = s.fl) (hregs : t.regs = s.regs)
    (hmem : t.mem = s.mem) (hsp : t.spIndex = s.spIndex) : instrFault i t = instrFault i s := by
  simp only [instrFault, hpc, hfl, stackFault_congr i hregs hmem hsp]

@[simp] theorem instrFault_withRunState (i : Instr) (s : State) (r : RunState) :
    instrFault i { s with runState := r } = instrFault i s := instrFault_congr i rfl rfl rfl rfl rfl

/-- The machine that entered a fault would raise it again. -/
@[simp] theorem stepFault_faultedWith (s : State) (c op f : Byte) : stepFault (s.faultedWith c op f) = stepFault s := by
  have hfetched : (s.faultedWith c op f).fetched = s.fetched := rfl
  have hinstr (i : Instr) : instrFault i (s.faultedWith c op f) = instrFault i s := instrFault_congr i rfl rfl rfl rfl rfl
  simp only [stepFault, hfetched, hinstr]

/-! ### One step -/

/-- R56: a step outside RUNNING changes nothing. -/
theorem step_stopped {s : State} (h : s.runState ≠ .running) : step s = .next s := by
  unfold step
  split
  · exact absurd ‹_› h
  · rfl
  · rfl

/-- The first byte of the fetch is the one at the pc (R58). -/
@[simp] theorem State.fetchByte_zero (s : State) : s.fetchByte 0 = s.load s.pc := by
  simp [State.fetchByte, u8]

/-- A recognized instruction that passes its checks completes (R57, R64). -/
theorem step_of_noFault {s : State} {i : Instr} (hr : s.runState = .running) (hi : s.fetched = .ok i)
    (hf : instrFault i s = none) : step s = .next (effect i s) := by
  simp only [step, hr, hi]
  rw [exec_eq, outcome_of_noFault hf]

/-- A step with a fault, of its opcode byte or of its instruction, is the fault entry of R86. -/
theorem step_of_fault {s : State} {c f : Byte} (hr : s.runState = .running) (hf : stepFault s = some (c, f)) :
    step s = .next (s.faultedWith c (s.load s.pc) f) := by
  cases hd : s.fetched with
  | error r =>
    obtain ⟨rfl, rfl⟩ : 1 = c ∧ 0 = f := by simpa [stepFault, hd] using hf
    simp [step, hr, hd, raiseIllegalOpcode, State.raise_eq_faultedWith, FaultCause.code]
  | ok i =>
    have hf' : instrFault i s = some (c, f) := by simpa [stepFault, hd] using hf
    have hop : i.opcode = s.load s.pc := (decodeFetched_ok_opcode hd).trans s.fetchByte_zero
    simp only [step, hr, hd]
    rw [exec_eq, outcome_of_fault hf', hop]

/-- What one step can do: nothing outside RUNNING, else fault entry, else the effect of the fetched instruction. -/
theorem step_cases (s : State) :
    (s.runState ≠ .running ∧ step s = .next s) ∨
    (s.runState = .running ∧ ∃ c f, stepFault s = some (c, f) ∧ step s = .next (s.faultedWith c (s.load s.pc) f)) ∨
    (s.runState = .running ∧ ∃ i, s.fetched = .ok i ∧ instrFault i s = none ∧ step s = .next (effect i s)) := by
  by_cases hr : s.runState = .running
  · cases hf : stepFault s with
    | some p => exact .inr (.inl ⟨hr, p.1, p.2, rfl, step_of_fault hr hf⟩)
    | none =>
      cases hd : s.fetched with
      | error r => simp [stepFault, hd] at hf
      | ok i =>
        have hf' : instrFault i s = none := by simpa [stepFault, hd] using hf
        exact .inr (.inr ⟨hr, i, rfl, hf', step_of_noFault hr hd hf'⟩)
  · exact .inl ⟨hr, step_stopped hr⟩

/-! ### The transactions of one step -/

/-- A machine outside RUNNING makes no transaction (R56). -/
theorem stepEvents_stopped {s : State} (h : s.runState ≠ .running) : stepEvents s = [] := by
  unfold stepEvents
  split
  · exact absurd ‹_› h
  · rfl
  · rfl

theorem instrEvents_of_fault {i : Instr} {s : State} {c f : Byte} (h : instrFault i s = some (c, f)) :
    instrEvents i s = faultEvents i s (s.faultedWith c i.opcode f) := by
  have h' : instrFault i { s with runState := .running } = some (c, f) := by simpa using h
  simp only [instrEvents, exec_eq, outcome_of_fault h', State.faultedWith_runState, if_pos]
  rfl

theorem instrEvents_of_noFault {i : Instr} {s : State} (h : instrFault i s = none) :
    instrEvents i s = handlerEvents i s (effect i { s with runState := .running }) := by
  have h' : instrFault i { s with runState := .running } = none := by simpa using h
  have hr : (effect i { s with runState := .running }).runState ≠ .faulted := effect_not_faulted i (by simp)
  simp only [instrEvents, exec_eq, outcome_of_noFault h', if_neg hr]

/-- The transactions of a step that completes. -/
theorem stepEvents_of_noFault {s : State} {i : Instr} (hr : s.runState = .running) (hi : s.fetched = .ok i)
    (hf : instrFault i s = none) : stepEvents s = fetchEvents s ++ handlerEvents i s (effect i s) := by
  have hs : { s with runState := .running } = s := by rw [← hr]
  simp only [stepEvents, hr, hi, instrEvents_of_noFault hf, hs]

/-- The transactions before a fault are reads, so they change nothing (R33, R67). -/
theorem foldl_faultEvents (i : Instr) (s t u : State) : (faultEvents i s t).foldl applyEvent u = u := by
  cases i
  case pop a => simp only [faultEvents]; split <;> rfl
  all_goals rfl

theorem foldl_fetchEvents (s u : State) : (fetchEvents s).foldl applyEvent u = u := rfl

/-- The transactions of a step that faults change nothing (R67, R86). -/
theorem foldl_stepEvents_of_fault {s : State} {c f : Byte} (hr : s.runState = .running)
    (hf : stepFault s = some (c, f)) : (stepEvents s).foldl applyEvent s = s := by
  cases hd : s.fetched with
  | error r => simp only [stepEvents, hr, hd, List.foldl_append, foldl_fetchEvents, List.foldl_nil]
  | ok i =>
    have hf' : instrFault i s = some (c, f) := by simpa [stepFault, hd] using hf
    simp only [stepEvents, hr, hd, List.foldl_append, foldl_fetchEvents, instrEvents_of_fault hf', foldl_faultEvents]

/-- A memory that is an old one with one byte written is told by that byte (R34). -/
theorem sameMem_store_of_mem_eq {s t : State} {adr v : Byte} (h : t.mem = Memory.write s.mem adr v) :
    SameMem (s.store adr (t.load adr)) t := by
  intro b
  have hload : ∀ x, t.load x = (s.store adr v).load x := State.load_congr (s := s.store adr v) h
  by_cases hb : b = adr
  · rw [hb, State.load_store_self]
  · rw [State.load_store_ne _ _ hb, hload, State.load_store_ne _ _ hb]

/-- The transactions of a completed handler account for what it did to memory and output (R9, R10, R34, R38). -/
theorem handlerEvents_account (i : Instr) (s : State) :
    SameMem ((handlerEvents i s (effect i s)).foldl applyEvent s) (effect i s) ∧
      (effect i s).output = ((handlerEvents i s (effect i s)).foldl applyEvent s).output := by
  cases i
  case push a =>
    obtain ⟨v, hv⟩ := effect_mem_push a s
    exact ⟨sameMem_store_of_mem_eq hv, effect_output (by simp) s⟩
  case call a =>
    obtain ⟨v, hv⟩ := effect_mem_call a s
    exact ⟨sameMem_store_of_mem_eq hv, effect_output (by simp) s⟩
  case prn a => simp [handlerEvents, applyEvent, SameMem, State.load_congr (effect_mem (i := .prn a) (by simp) (by simp) s)]
  all_goals exact ⟨State.load_congr (effect_mem (by simp) (by simp) s), effect_output (by simp) s⟩

/-! ### The invariant -/

theorem afterReset_inv {s : State} (h : Memory.wf s.mem = true) : s.afterReset.Inv where
  memCanonical := h
  flagsLegal := .inl rfl
  recordClear _ := ⟨rfl, rfl, rfl, rfl⟩
  faultExplained h := nomatch h

/-- Fault entry explains itself: the entered state stands where the fault was raised. -/
theorem faultedWith_inv {s : State} {c f : Byte} (h : s.Inv) (hf : stepFault s = some (c, f)) :
    (s.faultedWith c (s.load s.pc) f).Inv where
  memCanonical := h.memCanonical
  flagsLegal := h.flagsLegal
  recordClear hne := absurd rfl hne
  faultExplained _ := ⟨rfl, rfl, by simpa using hf⟩

theorem effect_flagsLegal (i : Instr) {s : State} (h : s.Inv) :
    (effect i s).fl = 0x00 ∨ (effect i s).fl = 0x01 ∨ (effect i s).fl = 0x02 ∨ (effect i s).fl = 0x04 := by
  cases i
  case cmp a b => exact .inr (compareFlags_cases _ _)
  all_goals rw [effect_fl (by simp)]; exact h.flagsLegal

theorem effect_inv (i : Instr) {s : State} (h : s.Inv) (hr : s.runState ≠ .faulted) : (effect i s).Inv where
  memCanonical := effect_mem_wf i h.memCanonical
  flagsLegal := effect_flagsLegal i h
  recordClear _ := by
    obtain ⟨hcause, hpc, hop, hinfo, -⟩ := effect_sameRecord i s
    rw [hcause, hpc, hop, hinfo]
    exact h.recordClear hr
  faultExplained hf := absurd hf (effect_not_faulted i hr)

/-- Every step answers a next state and keeps the invariant and SP_INDEX. -/
theorem step_keeps_inv {s : State} (h : s.Inv) : ∃ t, step s = .next t ∧ t.Inv ∧ t.spIndex = s.spIndex := by
  rcases step_cases s with ⟨-, hs⟩ | ⟨-, c, f, hf, hs⟩ | ⟨hr, i, -, -, hs⟩
  · exact ⟨_, hs, h, rfl⟩
  · exact ⟨_, hs, faultedWith_inv h hf, rfl⟩
  · obtain ⟨-, -, -, -, hsp⟩ := effect_sameRecord i s
    exact ⟨_, hs, effect_inv i h (by simp [hr]), hsp⟩

theorem transact_keeps_inv (x : Transaction) {s : State} (h : s.Inv) :
    ∃ t, transact x s = .next t ∧ t.Inv ∧ t.spIndex = s.spIndex := by
  cases x with
  | reset => exact ⟨_, rfl, afterReset_inv h.memCanonical, rfl⟩
  | step => exact step_keeps_inv h

/-! ### Runs -/

/-- Every step answers a next state. -/
theorem step_total (s : State) : ∃ t, step s = .next t := by
  rcases step_cases s with ⟨-, hs⟩ | ⟨-, _, _, -, hs⟩ | ⟨-, _, -, -, hs⟩ <;> exact ⟨_, hs⟩

theorem run_succ {s t : State} (h : step s = .next t) (n : Nat) :
    Host.Core.run core (n + 1) s = Host.Core.run core n t := by
  have hs : core.step s = .next t := h
  simp only [Host.Core.run, hs]

/-- A run from a stopped state stays in it (R56). -/
theorem run_stopped {s : State} (h : s.runState ≠ .running) (n : Nat) : Host.Core.run core n s = .next s := by
  induction n with
  | zero => rfl
  | succ n ih => rw [run_succ (step_stopped h), ih]

theorem drive_succ {s t : State} (hr : s.runState = .running) (h : step s = .next t) (n : Nat) :
    drive (n + 1) s = drive n t := by simp [drive, State.ended, hr, h]

/-- The driver calls no `step()` once the run has ended (R101). -/
theorem drive_stopped {s : State} (h : s.runState ≠ .running) (n : Nat) : drive n s = .next s := by
  cases n <;> simp [drive, State.ended, h]

/-! ### The obligations -/

/-- Settles O31: a fault and every other instruction leave the output, and PRN's effect appends its register. -/
theorem onlyPrnEmits : Obligations.OnlyPrnEmits := by
  intro i s t h
  rw [exec_eq, Host.Outcome.next.injEq] at h
  subst h
  cases hf : instrFault i s with
  | some p => rw [outcome_of_fault hf]; exact .inl rfl
  | none =>
    rw [outcome_of_noFault hf]
    cases i
    case prn a =>
      have ha : isRegister a = true := isRegister_of_noFault hf (by simp [Instr.registerOperands])
      exact .inr ⟨a, regOf a, rfl, toNat_regOf ha, effect_output_prn a s⟩
    all_goals exact .inl (effect_output (by simp) s)

/-- Settles O40, by the three things a step can do: only a completed handler makes a transaction that changes anything. -/
theorem transactionsAccountForMemoryAndOutput : Obligations.TransactionsAccountForMemoryAndOutput := by
  intro s t h
  rcases step_cases s with ⟨hr, hs⟩ | ⟨hr, c, f, hf, hs⟩ | ⟨hr, i, hi, hf, hs⟩
  all_goals
    rw [hs, Host.Outcome.next.injEq] at h
    subst h
  · rw [stepEvents_stopped hr]
    exact ⟨fun _ => rfl, rfl⟩
  · rw [foldl_stepEvents_of_fault hr hf]
    exact ⟨fun _ => rfl, rfl⟩
  · rw [stepEvents_of_noFault hr hi hf, List.foldl_append, foldl_fetchEvents]
    exact handlerEvents_account i s

/-- Settles O46, by induction on the number of steps: once the driver stops, the bare loop stays where it is (R56). -/
theorem driverEqualsBareLoop : Obligations.DriverEqualsBareLoop := by
  intro n
  induction n with
  | zero => exact fun _ => rfl
  | succ n ih =>
    intro s
    by_cases hr : s.runState = .running
    · obtain ⟨t, ht⟩ := step_total s
      rw [drive_succ hr ht, ih t]
      exact (run_succ ht n).symm
    · exact (drive_stopped hr _).trans (run_stopped hr _).symm

/-- Settles O50, by induction over the transactions: each answers a next state and keeps the invariant and SP_INDEX. -/
theorem transactionsKeepInvariant : Obligations.TransactionsKeepInvariant := by
  intro xs
  induction xs with
  | nil => exact fun s h => ⟨s, rfl, h, rfl⟩
  | cons x xs ih =>
    intro s h
    obtain ⟨t, hx, ht, hsp⟩ := transact_keeps_inv x h
    obtain ⟨u, hxs, hu, hsp'⟩ := ih t ht
    exact ⟨u, by rw [transactAll, hx]; exact hxs, hu, hsp'.trans hsp⟩

end Sys2Proof.Machine

/-! SUPPORT. When an instruction raises no fault, which registers and which pc its effect leaves, and that a register it does not read has no influence on it. -/

namespace Sys2Proof.Machine

/-! ### The absence of a fault, check by check -/

/-- An instruction raises no fault exactly when its checks 2 to 4 and its handler's own check pass (R61 to R63, R87). -/
theorem instrFault_eq_none_iff (i : Instr) (s : State) :
    instrFault i s = none ↔
      s.pc.toNat + i.length ≤ 256 ∧ (∀ b ∈ i.registerOperands, isRegister b = true) ∧
        (needsSuccessor i s.fl = true → s.pc.toNat + i.length ≤ 255) ∧ stackFault i s = none := by
  rw [instrFault_eq]
  by_cases hin : 256 < s.pc.toNat + i.length
  · simp [hin]
  · cases hfind : i.registerOperands.find? (fun b => !isRegister b) with
    | some b =>
      have hbad : ¬ ∀ b ∈ i.registerOperands, isRegister b = true := fun h => by
        have := List.find?_some hfind
        simp [h b (List.mem_of_find?_eq_some hfind)] at this
      simp [hin, hbad]
    | none =>
      have hregs : ∀ b ∈ i.registerOperands, isRegister b = true := by simpa using hfind
      by_cases hsucc : needsSuccessor i s.fl = true ∧ 255 < s.pc.toNat + i.length
      · simp [hin, hsucc]
      · have hsucc' : needsSuccessor i s.fl = true → s.pc.toNat + i.length ≤ 255 := by simpa using hsucc
        simp only [hin, hsucc, if_false]
        exact ⟨fun h => ⟨Nat.not_lt.mp hin, hregs, hsucc', h⟩, fun ⟨_, _, _, h⟩ => h⟩

theorem isRegister_of_toNat_eq {b : Byte} {r : RegIdx} (h : b.toNat = r.val) : isRegister b = true := by
  simp [isRegister, h]

/-- An instruction with a successor and well-formed operands, whose handler checks nothing, completes (R65). -/
theorem exec_completes {i : Instr} {s : State} (hpc : s.pc.toNat + i.length ≤ 255)
    (hregs : ∀ b ∈ i.registerOperands, isRegister b = true) (hs : stackFault i s = none) :
    exec i s = .next (effect i s) := by
  rw [exec_eq, outcome_of_noFault ((instrFault_eq_none_iff i s).mpr ⟨by omega, hregs, fun _ => hpc, hs⟩)]

/-! ### The pc after a completed instruction -/

/-- Every instruction that needs its successor but CALL falls through to it (R63, R65). -/
theorem effect_pc_of_needsSuccessor {i : Instr} {s : State} (hn : needsSuccessor i s.fl = true)
    (hcall : ∀ a, i ≠ .call a) : (effect i s).pc = u8 (s.pc.toNat + i.length) := by
  cases i
  case hlt | ret | jmp => simp [needsSuccessor] at hn
  case call a => exact absurd rfl (hcall a)
  case jeq a =>
    have heqf : eqf s.fl = false := by simpa [needsSuccessor_jeq] using hn
    simp [effect, heqf]
  case jne a =>
    have heqf : eqf s.fl = true := by simpa [needsSuccessor_jne] using hn
    simp [effect, heqf]
  all_goals simp [effect, aluHandler, compareHandler]

/-! ### The registers a completed instruction writes -/

theorem namedRegister_eq {b : Byte} (h : isRegister b = true) : namedRegister b = [regOf b] := by
  have hb : b.toNat < 8 := by simpa [isRegister] using h
  simp [namedRegister, hb, regOf, Nat.mod_eq_of_lt hb]

/-- The effect writes only the registers in the column "registers written" (R16). -/
theorem effect_sameRegsBut_written {i : Instr} (s : State) (hregs : ∀ b ∈ i.registerOperands, isRegister b = true) :
    SameRegsBut (registersWritten i s) s (effect i s) := by
  intro r hr
  cases i
  case ldi a _ | mul a _ | add a _ =>
    rw [registersWritten, namedRegister_eq (hregs a (.head _)), List.mem_singleton] at hr
    exact s.readReg_writeReg_ne _ hr
  case pop a =>
    rw [registersWritten, namedRegister_eq (hregs a (.head _)), List.mem_cons,
      List.mem_singleton, not_or] at hr
    obtain ⟨hsp, ha⟩ := hr
    exact (State.readReg_writeReg_ne _ _ hsp).trans (s.readReg_writeReg_ne _ ha)
  case push | call | ret =>
    exact s.readReg_writeReg_ne _ (by simpa [registersWritten] using hr)
  case jeq | jne => simp only [effect]; split <;> rfl
  all_goals rfl

/-! ### The influence of one register -/

/-- Two states alike in everything but, perhaps, what one register holds. -/
structure SameBut (r : RegIdx) (s t : State) : Prop where
  regs : SameRegsBut [r] s t
  pc : t.pc = s.pc
  fl : t.fl = s.fl
  mem : t.mem = s.mem
  output : t.output = s.output
  status : SameStatus s t

namespace SameBut

variable {r : RegIdx} {s t : State}

theorem of_writeReg (r : RegIdx) (s : State) (v : Byte) : SameBut r s (s.writeReg r v) where
  regs x hx := s.readReg_writeReg_ne v (by simpa using hx)
  pc := rfl
  fl := rfl
  mem := rfl
  output := rfl
  status := ⟨rfl, rfl, rfl, rfl, rfl, rfl⟩

theorem spIndex_eq (h : SameBut r s t) : t.spIndex = s.spIndex := by
  obtain ⟨-, -, -, -, -, hsp⟩ := h.status
  exact hsp

theorem readReg_eq (h : SameBut r s t) {x : RegIdx} (hx : r ≠ x) : t.readReg x = s.readReg x :=
  h.regs x (by simpa using hx.symm)

theorem sp_eq (h : SameBut r s t) (hr : r ≠ s.spIndex) : t.sp = s.sp := by
  rw [State.sp, h.spIndex_eq, h.readReg_eq hr, State.sp]

theorem load_eq (h : SameBut r s t) (adr : Byte) : t.load adr = s.load adr := State.load_congr h.mem adr

/-! The same update of both states keeps them alike. -/

theorem writeReg (h : SameBut r s t) (i : RegIdx) (v : Byte) : SameBut r (s.writeReg i v) (t.writeReg i v) :=
  { h with regs := fun x hx => by simp only [State.readReg_writeReg, h.regs x hx] }

theorem writeSp (h : SameBut r s t) (v : Byte) : SameBut r (s.writeSp v) (t.writeSp v) := by
  simpa only [State.writeSp, h.spIndex_eq] using h.writeReg s.spIndex v

theorem store (h : SameBut r s t) (adr v : Byte) : SameBut r (s.store adr v) (t.store adr v) :=
  { h with mem := by simp only [State.store_mem, h.mem] }

theorem writeFl (h : SameBut r s t) (f : Byte) : SameBut r (s.writeFl f) (t.writeFl f) := { h with fl := rfl }

theorem emit (h : SameBut r s t) (v : Byte) : SameBut r (s.emit v) (t.emit v) :=
  { h with output := by simp only [State.emit_output, h.output] }

theorem fallThrough (h : SameBut r s t) (n : Nat) : SameBut r (s.fallThrough n) (t.fallThrough n) :=
  { h with pc := by simp only [State.fallThrough_pc, h.pc] }

theorem jumpTo (h : SameBut r s t) (a : Byte) : SameBut r (s.jumpTo a) (t.jumpTo a) := { h with pc := rfl }

theorem halt (h : SameBut r s t) : SameBut r s.halt t.halt := { h with status := ⟨rfl, h.status.right⟩ }

theorem faultedWith (h : SameBut r s t) (c op f : Byte) : SameBut r (s.faultedWith c op f) (t.faultedWith c op f) :=
  { h with status := ⟨rfl, rfl, h.pc, rfl, rfl, h.spIndex_eq⟩ }

/-- A register that an instruction does not read has no influence on its handler's own check. -/
theorem stackFault_eq (h : SameBut r s t) {i : Instr} (hr : r ∉ registersRead i s) : stackFault i t = stackFault i s := by
  cases i
  case push | call | pop | ret =>
    have hsp : t.sp = s.sp := h.sp_eq (fun e => hr (by simp [registersRead, e]))
    simp only [stackFault, hsp, h.spIndex_eq, h.load_eq]
  all_goals rfl

/-- A register that an instruction does not read has no influence on its fault. -/
theorem instrFault_eq (h : SameBut r s t) {i : Instr} (hr : r ∉ registersRead i s) : instrFault i t = instrFault i s := by
  simp only [instrFault, h.pc, h.fl, h.stackFault_eq hr]

/-- An operand register that is not the one in question reads alike. -/
theorem readReg_regOf_eq (h : SameBut r s t) {b : Byte} (hb : isRegister b = true) (hr : r ∉ namedRegister b) :
    t.readReg (regOf b) = s.readReg (regOf b) :=
  h.readReg_eq (by simpa [namedRegister_eq hb] using hr)

/-- Both operand registers of an instruction with two read alike. -/
theorem readReg_regOf_eq_both (h : SameBut r s t) {a b : Byte} (hregs : ∀ x ∈ [a, b], isRegister x = true)
    (hr : r ∉ namedRegister a ++ namedRegister b) :
    t.readReg (regOf a) = s.readReg (regOf a) ∧ t.readReg (regOf b) = s.readReg (regOf b) := by
  obtain ⟨hra, hrb⟩ : r ∉ namedRegister a ∧ r ∉ namedRegister b := by simpa using hr
  exact ⟨h.readReg_regOf_eq (hregs a (by simp)) hra, h.readReg_regOf_eq (hregs b (by simp)) hrb⟩

/-- MUL and ADD on two states that agree on the operands. -/
theorem aluHandler (h : SameBut r s t) (op : AluOp) {ra rb : RegIdx} (ha : t.readReg ra = s.readReg ra)
    (hb : t.readReg rb = s.readReg rb) : SameBut r (aluHandler op ra rb s) (aluHandler op ra rb t) := by
  simpa only [Machine.aluHandler, ha, hb] using h.writeReg ra _

/-- CMP on two states that agree on the operands. -/
theorem compareHandler (h : SameBut r s t) {ra rb : RegIdx} (ha : t.readReg ra = s.readReg ra)
    (hb : t.readReg rb = s.readReg rb) : SameBut r (compareHandler ra rb s) (compareHandler ra rb t) := by
  simpa only [Machine.compareHandler, ha, hb] using h.writeFl _

end SameBut

/-- A register that an instruction does not read has no influence on its effect. -/
theorem effect_sameBut {r : RegIdx} {s t : State} (h : SameBut r s t) {i : Instr}
    (hregs : ∀ b ∈ i.registerOperands, isRegister b = true) (hr : r ∉ registersRead i s) :
    SameBut r (effect i s) (effect i t) := by
  cases i
  case hlt => exact (h.fallThrough 1).halt
  case ldi a imm => exact (h.writeReg _ _).fallThrough 3
  case prn a =>
    simp only [effect, h.readReg_regOf_eq (hregs a (.head _)) hr]
    exact (h.emit _).fallThrough 2
  case mul a b | add a b =>
    obtain ⟨ha, hb⟩ := h.readReg_regOf_eq_both hregs hr
    exact (h.aluHandler _ ha hb).fallThrough 3
  case cmp a b =>
    obtain ⟨ha, hb⟩ := h.readReg_regOf_eq_both hregs hr
    exact (h.compareHandler ha hb).fallThrough 3
  case pop a =>
    have hsp : r ≠ s.spIndex := by simpa [registersRead] using hr
    have hpopped := h.writeReg (regOf a) (s.load s.sp)
    simp only [effect, h.sp_eq hsp, h.load_eq, hpopped.sp_eq hsp]
    exact (hpopped.writeSp _).fallThrough 2
  case push a =>
    obtain ⟨hsp, ha⟩ : r ≠ s.spIndex ∧ r ∉ namedRegister a := by simpa [registersRead] using hr
    have hdec := h.writeSp (u8 (s.sp.toNat - 1))
    simp only [effect, h.sp_eq hsp, hdec.readReg_regOf_eq (hregs a (.head _)) ha, State.sp_writeSp]
    exact (hdec.store _ _).fallThrough 2
  case call a =>
    obtain ⟨hsp, ha⟩ : r ≠ s.spIndex ∧ r ∉ namedRegister a := by simpa [registersRead] using hr
    have hdec := h.writeSp (u8 (s.sp.toNat - 1))
    simp only [effect, h.sp_eq hsp, h.pc, hdec.readReg_regOf_eq (hregs a (.head _)) ha, State.sp_writeSp]
    exact (hdec.store _ _).jumpTo _
  case ret =>
    have hsp : r ≠ s.spIndex := by simpa [registersRead] using hr
    simp only [effect, h.sp_eq hsp, h.load_eq]
    exact (h.writeSp _).jumpTo _
  case jmp a =>
    simp only [effect, h.readReg_regOf_eq (hregs a (.head _)) hr]
    exact h.jumpTo _
  case jeq a =>
    by_cases htaken : s.fl.toNat % 2 = 1
    · have ha := h.readReg_regOf_eq (hregs a (.head _)) (by simpa [registersRead, htaken] using hr)
      simp only [effect, h.fl, eqf_eq_decide_odd, htaken, decide_true, if_true, ha]
      exact h.jumpTo _
    · simp only [effect, h.fl, eqf_eq_decide_odd, htaken, decide_false, Bool.false_eq_true, if_false]
      exact h.fallThrough 2
  case jne a =>
    by_cases heq : s.fl.toNat % 2 = 1
    · simp only [effect, h.fl, eqf_eq_decide_odd, heq, decide_true, if_true]
      exact h.fallThrough 2
    · have ha := h.readReg_regOf_eq (hregs a (.head _)) (by simpa [registersRead, Nat.mod_two_ne_one.mp heq] using hr)
      simp only [effect, h.fl, eqf_eq_decide_odd, heq, decide_false, Bool.false_eq_true, if_false, ha]
      exact h.jumpTo _

/-- A register that an instruction does not read has no influence on what it leads to. -/
theorem outcome_sameBut {r : RegIdx} {s t : State} (h : SameBut r s t) {i : Instr} (hr : r ∉ registersRead i s) :
    SameBut r (outcome i s) (outcome i t) := by
  have hfault := h.instrFault_eq hr
  cases hf : instrFault i s with
  | some p =>
    rw [outcome_of_fault hf, outcome_of_fault (hfault.trans hf)]
    exact h.faultedWith _ _ _
  | none =>
    rw [outcome_of_noFault hf, outcome_of_noFault (hfault.trans hf)]
    exact effect_sameBut h (fun _ => isRegister_of_noFault hf) hr

/-! ### The registers after reset -/

theorem readReg_of_regs_eq_resetRegs {s : State} (h : s.regs = resetRegs s.spIndex) (r : RegIdx) :
    s.readReg r = if r = s.spIndex then 0xF4 else 0x00 := by
  simp only [State.readReg, h, resetRegs, Vector.getElem_set, Vector.getElem_replicate, Fin.val_inj, Config.spReset,
    eq_comm]

/-- What `reset()` leaves (R29). -/
theorem afterReset_hasResetValues (s : State) : s.afterReset.HasResetValues := by
  have hread := readReg_of_regs_eq_resetRegs s.afterReset_regs
  refine ⟨fun r hr => ?_, ?_, rfl, rfl, rfl, rfl, rfl, rfl, rfl⟩
  · rw [hread, if_neg hr]
  · rw [State.sp, hread, if_pos rfl]

/-! ### The obligations -/

/-- Settles O48, by the three things a step can do, each of which keeps the invariant. -/
theorem stepKeepsInvariant : Obligations.StepKeepsInvariant := by
  intro s t h hs
  obtain ⟨u, hu, hinv, -⟩ := step_keeps_inv h
  rw [hu, Host.Outcome.next.injEq] at hs
  exact hs ▸ hinv

/-- Settles O11, by induction on the transactions: without a `reset()` each is a step, which leaves the state (R56). -/
theorem onlyResetLeavesAStoppedState : Obligations.OnlyResetLeavesAStoppedState := by
  intro s xs hr
  refine ⟨fun hxs => ?_, s.afterReset, rfl, rfl⟩
  induction xs with
  | nil => rfl
  | cons x xs ih =>
    obtain ⟨hx, hrest⟩ : Transaction.reset ≠ x ∧ Transaction.reset ∉ xs := by simpa using hxs
    cases x with
    | reset => exact absurd rfl hx
    | step => rw [transactAll, transact, step_stopped hr]; exact ih hrest

/-- Settles O28: fault entry leaves FL, and of the effects only CMP's writes it, with one of three values. -/
theorem onlyCmpWritesFl : Obligations.OnlyCmpWritesFl := by
  intro i s t h
  rw [exec_eq, Host.Outcome.next.injEq] at h
  subst h
  cases hf : instrFault i s with
  | some p => rw [outcome_of_fault hf]; exact ⟨fun _ => rfl, by simp, id⟩
  | none =>
    rw [outcome_of_noFault hf]
    cases i
    case cmp a b =>
      have hfl := compareFlags_cases (s.readReg (regOf a)) (s.readReg (regOf b))
      refine ⟨fun h => absurd rfl (h a b), fun _ _ _ _ => hfl, fun _ => ?_⟩
      rw [effect_fl_cmp]
      rcases hfl with hfl | hfl | hfl <;> rw [hfl] <;> decide
    all_goals
      rw [effect_fl (by simp)]
      exact ⟨fun _ => rfl, by simp, id⟩

/-- Settles O30: the writes by the effect's frame, the influence by running the instruction on two states that are alike but for one register. -/
theorem registersAreReachedAsTabulated : Obligations.RegistersAreReachedAsTabulated := by
  constructor
  · intro i s t h
    rw [exec_eq, Host.Outcome.next.injEq] at h
    subst h
    cases hf : instrFault i s with
    | some p => rw [outcome_of_fault hf]; exact fun _ _ => rfl
    | none =>
      rw [outcome_of_noFault hf]
      exact effect_sameRegsBut_written s (fun _ => isRegister_of_noFault hf)
  · intro i s r v hr
    have h := outcome_sameBut (SameBut.of_writeReg r s v) hr
    exact ⟨_, _, exec_eq i s, exec_eq i _, h.regs, h.pc, h.fl, h.load_eq, h.output, h.status⟩

/-- Settles O33: a fall-through has passed check 4, so that the sum pc + len is a byte; HLT alone makes no such check. -/
theorem fallThroughNeverWraps : Obligations.FallThroughNeverWraps := by
  intro i s t h hf hret hcall hjmp hjeq hjne
  rw [exec_eq, outcome_of_noFault hf, Host.Outcome.next.injEq] at h
  subst h
  refine ⟨fun hi => by subst hi; simp [effect], fun hhlt => ?_⟩
  have hn : needsSuccessor i s.fl = true := by
    cases i
    case hlt => exact absurd rfl hhlt
    case ret => exact absurd rfl hret
    case jmp a => exact absurd rfl (hjmp a)
    case jeq a => simpa [needsSuccessor] using hjeq a rfl
    case jne a => simpa [needsSuccessor] using hjne a rfl
    all_goals rfl
  obtain ⟨-, -, hsucc, -⟩ := (instrFault_eq_none_iff i s).mp hf
  rw [effect_pc_of_needsSuccessor hn hcall, u8_toNat, ← Instr.length_eq_encode]
  exact Nat.mod_eq_of_lt (Nat.lt_succ_of_le (hsucc hn))

/-- Settles O12: `State.reset` is what `reset()` leaves of itself, and every state has the values of R29 after it. -/
theorem resetLeavesTheSpecifiedValues : Obligations.ResetLeavesTheSpecifiedValues :=
  ⟨afterReset_hasResetValues State.reset, fun s => ⟨s.afterReset, rfl, afterReset_hasResetValues s, fun _ => rfl, rfl⟩⟩

/-- Settles O34: the operand byte SP_INDEX names SP, and below pc = 253 no check stops LDI, MUL or ADD. -/
theorem spIsANormalRegister : Obligations.SpIsANormalRegister := by
  intro b imm rb s hb hpc
  have hsp : (u8 s.spIndex.val).toNat = s.spIndex.val := by
    have := s.spIndex.isLt
    rw [u8_toNat]; omega
  have hregs : ∀ x ∈ [u8 s.spIndex.val, b], isRegister x = true := by
    simp [isRegister_of_toNat_eq hsp, isRegister_of_toNat_eq hb]
  refine ⟨⟨_, exec_completes (by simpa) ?_ rfl, ?_⟩, ⟨_, exec_completes (by simpa) hregs rfl, ?_⟩,
    ⟨_, exec_completes (by simpa) hregs rfl, ?_⟩⟩
  · simp [Instr.registerOperands, isRegister_of_toNat_eq hsp]
  · simp [effect, regOf_eq hsp, State.sp_writeReg]
  · simp [effect, aluHandler, alu, regOf_eq hsp, regOf_eq hb, State.sp]
  · simp [effect, aluHandler, alu, regOf_eq hsp, regOf_eq hb, State.sp]

/-- Settles O49: `State.reset` is what `reset()` leaves of itself, and its memory is canonical. -/
theorem resetHasInvariant : Obligations.ResetHasInvariant := by
  refine ⟨afterReset_inv State.reset_mem_wf, fun s t hm h => ?_⟩
  rw [transact, Host.Outcome.next.injEq] at h
  exact h ▸ afterReset_inv hm

end Sys2Proof.Machine

/-! SUPPORT. Memory as data and as bytes, the transactions of each instruction, and that a byte no transaction reads has no influence on a step. -/

namespace Sys2Proof.Machine

/-! ### Memory in canonical form -/

theorem Memory.wfFrom_cons_iff {lo a : Nat} {v : Byte} {m : Memory} :
    Memory.wfFrom lo ((a, v) :: m) = true ↔
      lo ≤ a ∧ a < 256 ∧ v ≠ Config.memFill ∧ Memory.wfFrom (a + 1) m = true := by
  simp [Memory.wfFrom, and_assoc]

/-- A canonical memory lists nothing below the address it starts from. -/
theorem Memory.lookup_of_lt {m : Memory} {lo k : Nat} (hm : Memory.wfFrom lo m = true) (hk : k < lo) :
    Memory.lookup m k = Config.memFill := by
  induction m generalizing lo with
  | nil => rfl
  | cons c m ih =>
    obtain ⟨hlo, -, -, hrest⟩ := Memory.wfFrom_cons_iff.mp hm
    rw [Memory.lookup, if_neg (by omega), ih hrest (by omega)]

/-- The first cell of a canonical memory tells it from every one that starts above it. -/
theorem Memory.lookup_head_ne {m m' : Memory} {a lo : Nat} {v : Byte} (hv : v ≠ Config.memFill)
    (hm' : Memory.wfFrom lo m' = true) (ha : a < lo) : Memory.lookup ((a, v) :: m) a ≠ Memory.lookup m' a := by
  rw [Memory.lookup_of_lt hm' ha, Memory.lookup, if_pos rfl]
  exact hv

/-- Canonical memories that answer alike at every address of R31 list the same cells. -/
theorem Memory.eq_of_lookup_eq {m m' : Memory} {lo lo' : Nat} (hm : Memory.wfFrom lo m = true)
    (hm' : Memory.wfFrom lo' m' = true) (h : ∀ k < 256, Memory.lookup m k = Memory.lookup m' k) : m = m' := by
  induction m generalizing lo lo' m' with
  | nil =>
    cases m' with
    | nil => rfl
    | cons c' m' =>
      obtain ⟨-, ha', hv', -⟩ := Memory.wfFrom_cons_iff.mp hm'
      exact absurd (h _ ha').symm (Memory.lookup_head_ne (lo := c'.1 + 1) hv' rfl (by omega))
  | cons c m ih =>
    obtain ⟨a, v⟩ := c
    obtain ⟨-, ha, hv, hrest⟩ := Memory.wfFrom_cons_iff.mp hm
    cases m' with
    | nil => exact absurd (h a ha) (Memory.lookup_head_ne (lo := a + 1) hv rfl (by omega))
    | cons c' m' =>
      obtain ⟨a', v'⟩ := c'
      obtain ⟨-, ha', hv', hrest'⟩ := Memory.wfFrom_cons_iff.mp hm'
      rcases Nat.lt_trichotomy a a' with hlt | rfl | hlt
      · have hfrom := Memory.wfFrom_cons_iff.mpr ⟨le_refl a', ha', hv', hrest'⟩
        exact absurd (h a ha) (Memory.lookup_head_ne hv hfrom hlt)
      · have hhead : v = v' := by simpa [Memory.lookup] using h a ha
        have htail : m = m' := ih hrest hrest' fun k hk => by
          by_cases hka : a = k
          · subst hka
            rw [Memory.lookup_of_lt hrest a.lt_succ_self, Memory.lookup_of_lt hrest' a.lt_succ_self]
          · simpa [Memory.lookup, hka] using h k hk
        rw [hhead, htail]
      · have hfrom := Memory.wfFrom_cons_iff.mpr ⟨le_refl a, ha, hv, hrest⟩
        exact absurd (h a' ha').symm (Memory.lookup_head_ne hv' hfrom hlt)

/-! ### The byte that PUSH and CALL write -/

@[simp] theorem effect_sp_push (a : Byte) (s : State) : (effect (.push a) s).sp = u8 (s.sp.toNat - 1) :=
  s.sp_writeSp _

@[simp] theorem effect_sp_call (a : Byte) (s : State) : (effect (.call a) s).sp = u8 (s.sp.toNat - 1) :=
  s.sp_writeSp _

/-- PUSH reads its register after SP is decremented (R77, D18). -/
theorem effect_load_push (a : Byte) (s : State) :
    (effect (.push a) s).load (u8 (s.sp.toNat - 1)) =
      if regOf a = s.spIndex then u8 (s.sp.toNat - 1) else s.readReg (regOf a) := by
  simp [effect, State.readReg_writeSp]

theorem effect_load_call (a : Byte) (s : State) :
    (effect (.call a) s).load (u8 (s.sp.toNat - 1)) = u8 (s.pc.toNat + 2) := by
  simp [effect]

/-- An instruction whose effect changes a byte is PUSH or CALL, and the byte is the one at the SP it leaves (R32). -/
theorem effect_load_ne {i : Instr} {s : State} {adr : Byte} (h : (effect i s).load adr ≠ s.load adr) :
    (∃ a, i = .push a ∨ i = .call a) ∧ adr = u8 (s.sp.toNat - 1) := by
  have hwrite {t : State} {v : Byte} (hmem : t.mem = Memory.write s.mem t.sp v) (ht : t.load adr ≠ s.load adr) :
      adr = t.sp := by
    by_contra hne
    exact ht ((State.load_congr (s := s.store t.sp v) hmem adr).trans (s.load_store_ne v hne))
  cases i
  case push a =>
    obtain ⟨v, hv⟩ := effect_mem_push a s
    exact ⟨⟨a, .inl rfl⟩, (hwrite hv h).trans (effect_sp_push a s)⟩
  case call a =>
    obtain ⟨v, hv⟩ := effect_mem_call a s
    exact ⟨⟨a, .inr rfl⟩, (hwrite hv h).trans (effect_sp_call a s)⟩
  all_goals exact absurd (State.load_congr (effect_mem (by simp) (by simp) s) adr) h

/-- A PUSH or CALL that raises no fault began with a free byte below SP (R77, R79). -/
theorem sp_pos_of_noFault {i : Instr} {s : State} (hi : ∃ a, i = .push a ∨ i = .call a)
    (h : instrFault i s = none) : 0 < s.sp.toNat := by
  obtain ⟨-, -, -, hstack⟩ := (instrFault_eq_none_iff i s).mp h
  obtain ⟨a, rfl | rfl⟩ := hi <;> simpa [stackFault, Nat.pos_iff_ne_zero] using hstack

/-! ### The transactions of an instruction -/

/-- A running machine's transactions begin with its fetch; those of the fetched instruction follow (R37, R58). -/
theorem stepEvents_of_fetched {s : State} {i : Instr} (hr : s.runState = .running) (hi : s.fetched = .ok i) :
    stepEvents s = fetchEvents s ++ instrEvents i s := by
  simp only [stepEvents, hr, hi]

theorem stepEvents_of_rejected {s : State} {r : Reject} (hr : s.runState = .running) (hi : s.fetched = .error r) :
    stepEvents s = fetchEvents s := by
  simp only [stepEvents, hr, hi, List.append_nil]

/-- The run state has no part in the transactions of an instruction that completes. -/
theorem instrEvents_of_completes {i : Instr} {s : State} (h : instrFault i s = none) :
    instrEvents i s = handlerEvents i s (effect i s) := by
  rw [instrEvents_of_noFault h]
  cases i <;> rfl

/-- A POP's transactions when it faults: its read, if the fault is the one it raises after reading (R78; log 7). -/
theorem instrEvents_pop_of_fault {a : Byte} {s : State} {c f : Byte} (h : instrFault (.pop a) s = some (c, f)) :
    instrEvents (.pop a) s = if c = 6 then [.memRead s.sp] else [] := instrEvents_of_fault h

theorem faultEvents_eq_nil {i : Instr} (h : ∀ a, i ≠ .pop a) (s t : State) : faultEvents i s t = [] := by
  cases i
  case pop a => exact absurd rfl (h a)
  all_goals rfl

/-- The instructions outside R32's table and PRN make no transaction. -/
theorem handlerEvents_eq_nil {i : Instr} (hpop : ∀ a, i ≠ .pop a) (hret : i ≠ .ret) (hpush : ∀ a, i ≠ .push a)
    (hcall : ∀ a, i ≠ .call a) (hprn : ∀ a, i ≠ .prn a) (s t : State) : handlerEvents i s t = [] := by
  cases i
  case pop a => exact absurd rfl (hpop a)
  case ret => exact absurd rfl hret
  case push a => exact absurd rfl (hpush a)
  case call a => exact absurd rfl (hcall a)
  case prn a => exact absurd rfl (hprn a)
  all_goals rfl

/-- PRN's one output (R71). -/
theorem handlerEvents_prn (a : Byte) (s : State) :
    handlerEvents (.prn a) s (effect (.prn a) s) = [.emit (s.readReg (regOf a))] := by
  simp [handlerEvents]

theorem handlerEvents_length_le_one (i : Instr) (s : State) : (handlerEvents i s (effect i s)).length ≤ 1 := by
  cases i
  case prn a => rw [handlerEvents_prn]; rfl
  all_goals simp [handlerEvents]

theorem faultEvents_length_le_one (i : Instr) (s t : State) : (faultEvents i s t).length ≤ 1 := by
  cases i
  case pop a => simp only [faultEvents]; split <;> simp
  all_goals simp [faultEvents]

/-- An instruction makes at most one transaction after its fetch (R37). -/
theorem instrEvents_length_le_one (i : Instr) (s : State) : (instrEvents i s).length ≤ 1 := by
  cases h : instrFault i s with
  | some p => rw [instrEvents_of_fault h]; exact faultEvents_length_le_one _ _ _
  | none => rw [instrEvents_of_completes h]; exact handlerEvents_length_le_one i s

/-! ### A step over another memory -/

/-- The state with another memory behind its port. -/
def State.withMem (s : State) (m : Memory) : State := { s with mem := m }

@[simp] theorem State.withMem_pc (s : State) (m : Memory) : (s.withMem m).pc = s.pc := rfl
@[simp] theorem State.withMem_fl (s : State) (m : Memory) : (s.withMem m).fl = s.fl := rfl
@[simp] theorem State.withMem_spIndex (s : State) (m : Memory) : (s.withMem m).spIndex = s.spIndex := rfl
@[simp] theorem State.sp_withMem (s : State) (m : Memory) : (s.withMem m).sp = s.sp := rfl
@[simp] theorem State.load_withMem (s : State) (m : Memory) (adr : Byte) : (s.withMem m).load adr = Memory.read m adr := rfl

/-- From `s` to `t`, and from the memory `m` to `m'`: every byte is its own old one in both, or the same one in both. -/
def KeptOrAlike (s t : State) (m m' : Memory) : Prop :=
  ∀ adr, (t.load adr = s.load adr ∧ Memory.read m' adr = Memory.read m adr) ∨ Memory.read m' adr = t.load adr

theorem KeptOrAlike.of_unchanged {s t : State} (m : Memory) (h : t.mem = s.mem) : KeptOrAlike s t m m :=
  fun adr => .inl ⟨State.load_congr h adr, rfl⟩

/-- The same write to both memories. -/
theorem KeptOrAlike.of_write {s t : State} (m : Memory) {a v : Byte} (h : t.mem = Memory.write s.mem a v) :
    KeptOrAlike s t m (Memory.write m a v) := by
  intro adr
  have hload : t.load adr = if adr = a then v else s.load adr := by rw [State.load, h, Memory.read_write]; rfl
  rw [hload, Memory.read_write]
  by_cases hadr : adr = a <;> simp [hadr]

/-- The effect over another memory that answers the handler's own read alike (R32). -/
theorem effect_withMem {i : Instr} {s : State} {m : Memory}
    (hread : ∀ adr, .memRead adr ∈ handlerEvents i s (effect i s) → s.load adr = Memory.read m adr) :
    ∃ m', effect i (s.withMem m) = (effect i s).withMem m' ∧ KeptOrAlike s (effect i s) m m' := by
  cases i
  case push | call => exact ⟨_, rfl, .of_write m rfl⟩
  case pop a | ret =>
    have hsp : s.load s.sp = Memory.read m s.sp := hread s.sp (.head _)
    refine ⟨m, ?_, .of_unchanged m rfl⟩
    simp only [effect, State.sp_withMem, State.load_withMem, ← hsp]
    rfl
  case jeq a | jne a =>
    refine ⟨m, ?_, .of_unchanged m (effect_mem (by simp) (by simp) s)⟩
    cases heqf : eqf s.fl <;> simp only [effect, State.withMem_fl, heqf] <;> rfl
  all_goals exact ⟨m, rfl, .of_unchanged m rfl⟩

/-- Whatever the memory, an instruction fails one of the checks 2 to 4, or its fault is its handler's (R61 to R63, R87). -/
theorem instrFault_eq_some_or_stackFault (i : Instr) (s : State) :
    (∃ p, ∀ m, instrFault i (s.withMem m) = some p) ∨ ∀ m, instrFault i (s.withMem m) = stackFault i (s.withMem m) := by
  simp only [instrFault_eq, State.withMem_pc, State.withMem_fl]
  by_cases hin : 256 < s.pc.toNat + i.length
  · simp [hin]
  · cases hfind : i.registerOperands.find? (fun b => !isRegister b) with
    | some b => simp [hin]
    | none => by_cases hsucc : needsSuccessor i s.fl = true ∧ 255 < s.pc.toNat + i.length <;> simp [hin, hsucc]

/-- Only POP's check depends on a byte of memory, the one at SP (R78). -/
theorem stackFault_withMem {i : Instr} {s : State} {m : Memory}
    (hpop : ∀ a, i = .pop a → s.load s.sp = Memory.read m s.sp) : stackFault i (s.withMem m) = stackFault i s := by
  cases i
  case pop a => simp only [stackFault, State.sp_withMem, State.load_withMem, State.withMem_spIndex, ← hpop a rfl]
  all_goals rfl

/-- POP's own check raises STACK_UNDERFLOW only (R78). -/
theorem stackFault_pop_code {a c f : Byte} {s : State} (h : stackFault (.pop a) s = some (c, f)) : c = 6 := by
  obtain ⟨-, hc, -⟩ : _ ∧ 6 = c ∧ 255 = f := by simpa [stackFault] using h
  exact hc.symm

/-- A POP that gets as far as its own check has read at SP (R78; log 7). -/
theorem memRead_sp_mem_instrEvents_pop {a : Byte} {s : State}
    (h : instrFault (.pop a) s = stackFault (.pop a) s) : .memRead s.sp ∈ instrEvents (.pop a) s := by
  cases hf : instrFault (.pop a) s with
  | none => rw [instrEvents_of_completes hf]; exact .head _
  | some p =>
    obtain ⟨c, f⟩ := p
    rw [instrEvents_pop_of_fault hf, if_pos (stackFault_pop_code (h.symm.trans hf))]
    exact .head _

/-- The fault over another memory that answers the instruction's reads alike. -/
theorem instrFault_withMem {i : Instr} {s : State} {m : Memory}
    (hread : ∀ adr, .memRead adr ∈ instrEvents i s → s.load adr = Memory.read m adr) :
    instrFault i (s.withMem m) = instrFault i s := by
  rcases instrFault_eq_some_or_stackFault i s with ⟨p, hp⟩ | hstack
  · exact (hp m).trans (hp s.mem).symm
  · have hs : instrFault i s = stackFault i s := hstack s.mem
    rw [hstack m, hs]
    refine stackFault_withMem fun a hi => hread _ ?_
    subst hi
    exact memRead_sp_mem_instrEvents_pop hs

/-- The fetch over another memory that answers its three reads alike (R58). -/
theorem fetched_withMem {s : State} {m : Memory}
    (hread : ∀ adr, .memRead adr ∈ fetchEvents s → s.load adr = Memory.read m adr) :
    (s.withMem m).fetched = s.fetched ∧ Memory.read m s.pc = s.load s.pc := by
  have h0 := hread s.pc (by simp [fetchEvents])
  have h1 := hread (u8 (s.pc.toNat + 1)) (by simp [fetchEvents])
  have h2 := hread (u8 (s.pc.toNat + 2)) (by simp [fetchEvents])
  refine ⟨?_, h0.symm⟩
  simp only [State.fetched, State.fetchByte_zero]
  simp only [State.fetchByte, State.withMem_pc, State.load_withMem, h0, h1, h2]

/-- A running machine's fault over another memory that answers the step's reads alike. -/
theorem stepFault_withMem {s : State} {m : Memory} (hr : s.runState = .running)
    (hread : ∀ adr, .memRead adr ∈ stepEvents s → s.load adr = Memory.read m adr)
    (hfetched : (s.withMem m).fetched = s.fetched) : stepFault (s.withMem m) = stepFault s := by
  simp only [stepFault, hfetched]
  cases hi : s.fetched with
  | error r => rfl
  | ok i =>
    rw [stepEvents_of_fetched hr hi] at hread
    exact instrFault_withMem fun adr hadr => hread adr (List.mem_append_right _ hadr)

/-- A step over another memory that answers the step's reads alike leads to the same state but for memory. -/
theorem step_withMem {s t : State} {m : Memory}
    (hread : ∀ adr, .memRead adr ∈ stepEvents s → s.load adr = Memory.read m adr) (h : step s = .next t) :
    ∃ m', step (s.withMem m) = .next (t.withMem m') ∧ KeptOrAlike s t m m' := by
  have hfetch (hr : s.runState = .running) := fetched_withMem (s := s) (m := m) fun adr hadr => hread adr <| by
    cases hi : s.fetched with
    | error r => rwa [stepEvents_of_rejected hr hi]
    | ok i => rw [stepEvents_of_fetched hr hi]; exact List.mem_append_left _ hadr
  rcases step_cases s with ⟨hr, hs⟩ | ⟨hr, c, f, hf, hs⟩ | ⟨hr, i, hi, hf, hs⟩
  all_goals
    rw [hs, Host.Outcome.next.injEq] at h
    subst h
  · exact ⟨m, step_stopped (s := s.withMem m) hr, .of_unchanged m rfl⟩
  · obtain ⟨hfetched, hop⟩ := hfetch hr
    have hf' : stepFault (s.withMem m) = some (c, f) := (stepFault_withMem hr hread hfetched).trans hf
    refine ⟨m, ?_, .of_unchanged m rfl⟩
    rw [step_of_fault (s := s.withMem m) hr hf', State.load_withMem, State.withMem_pc, hop]
    rfl
  · obtain ⟨hfetched, -⟩ := hfetch hr
    rw [stepEvents_of_fetched hr hi] at hread
    have hinstr : ∀ adr, .memRead adr ∈ instrEvents i s → s.load adr = Memory.read m adr :=
      fun adr hadr => hread adr (List.mem_append_right _ hadr)
    have hf' : instrFault i (s.withMem m) = none := (instrFault_withMem hinstr).trans hf
    rw [instrEvents_of_completes hf] at hinstr
    obtain ⟨m', heffect, hmem⟩ := effect_withMem hinstr
    exact ⟨m', by rw [step_of_noFault (s := s.withMem m) hr (hfetched.trans hi) hf', heffect], hmem⟩

/-! ### The obligations -/

/-- Settles O41: the fetch, the fault and the effect are the same over both memories, and only PUSH and CALL write, the same byte to each. -/
theorem stepDependsOnlyOnBytesItReads : Obligations.StepDependsOnlyOnBytesItReads := by
  intro s m t hread h
  obtain ⟨m', hstep, hmem⟩ := step_withMem hread h
  exact ⟨t.withMem m', hstep, rfl, hmem⟩

/-- Settles O29: a fault changes no byte, and of the effects only PUSH's and CALL's write one, below an SP that is not 0. -/
theorem onlyPushAndCallWriteMemory : Obligations.OnlyPushAndCallWriteMemory := by
  intro i s t adr h hne
  rw [exec_eq, Host.Outcome.next.injEq] at h
  subst h
  cases hf : instrFault i s with
  | some p => rw [outcome_of_fault hf] at hne; exact absurd rfl hne
  | none =>
    rw [outcome_of_noFault hf] at hne
    obtain ⟨hi, hadr⟩ := effect_load_ne hne
    have hpos := sp_pos_of_noFault hi hf
    refine ⟨hi, ?_⟩
    rw [hadr, decremented_toNat]
    omega

/-- Settles O35, by induction on the writes from the last one back. -/
theorem readsAnswerTheLatestWrite : Obligations.ReadsAnswerTheLatestWrite := by
  intro writes s adr
  induction writes using List.reverseRecOn with
  | nil => rfl
  | append_singleton ws w ih =>
    rw [List.foldl_append, List.reverse_append]
    simp only [List.foldl_cons, List.foldl_nil, List.reverse_singleton, List.singleton_append, List.find?_cons,
      State.load_store]
    by_cases hadr : adr = w.1
    · simp [hadr]
    · simp [hadr, Ne.symm hadr, ih]

/-- Settles O36: a listed cell is read back as itself, and no other memory in canonical form answers its byte without listing it. -/
theorem memoriesThatReadAlikeAreEqual : Obligations.MemoriesThatReadAlikeAreEqual := by
  intro m m' hm hm' h
  refine Memory.eq_of_lookup_eq hm hm' fun k hk => ?_
  simpa [Memory.read, Nat.mod_eq_of_lt hk] using h (u8 k)

/-- Settles O38: the fetch, and of the fetched instruction at most one transaction. -/
theorem stepTransactionsInOrder : Obligations.StepTransactionsInOrder := by
  refine fun s => ⟨stepEvents_stopped, fun hr => ?_⟩
  cases hi : s.fetched with
  | error r => exact ⟨[], stepEvents_of_rejected hr hi, Nat.zero_le 1⟩
  | ok i => exact ⟨instrEvents i s, stepEvents_of_fetched hr hi, instrEvents_length_le_one i s⟩

/-- Settles O39: a completed instruction makes its handler's transactions, a faulting one none but POP's read before its check. -/
theorem instructionTransactionsAsTabulated : Obligations.InstructionTransactionsAsTabulated := by
  refine fun i s => ⟨fun hf => ?_, fun hpop hret hpush hcall hprn => ?_, fun c f hf => ?_⟩
  · rw [instrEvents_of_completes hf]
    refine ⟨?_, ?_, ?_, ?_, ?_⟩
    · rintro a rfl; rfl
    · rintro rfl; rfl
    · rintro a ra rfl ha
      rw [handlerEvents, effect_sp_push, effect_load_push, regOf_eq ha]
      exact ⟨fun hra => by rw [if_neg hra], fun hra => by rw [if_pos hra]⟩
    · rintro a rfl
      rw [handlerEvents, effect_sp_call, effect_load_call]
    · rintro a ra rfl ha
      rw [handlerEvents_prn, regOf_eq ha]
  · cases hf : instrFault i s with
    | some p => rw [instrEvents_of_fault hf, faultEvents_eq_nil hpop]
    | none =>
      rw [instrEvents_of_completes hf]
      exact handlerEvents_eq_nil hpop hret hpush hcall hprn s _
  · refine ⟨?_, ?_, fun hpop => ?_⟩
    · rintro a rfl hc; rw [instrEvents_pop_of_fault hf, if_pos hc]
    · rintro a rfl hc; rw [instrEvents_pop_of_fault hf, if_neg hc]
    · rw [instrEvents_of_fault hf, faultEvents_eq_nil hpop]

/-- Settles O4, row by row of R52's table: a row has another operand count, or it does not use the byte. -/
theorem unusedOperandBytesAreIgnored : Obligations.UnusedOperandBytesAreIgnored := by
  intro op a b a' b'
  unfold decodeFetched
  constructor <;> intro h <;> split <;> simp_all

/-- Settles O37: PUSH completes and leaves the register's byte at SP - 1, where a fetch is a read of the same memory. -/
theorem fetchSeesPushedByte : Obligations.FetchSeesPushedByte := by
  intro a ra s ha hra hpc hsp
  have hstack : stackFault (.push a) s = none := by simp [stackFault, Nat.ne_of_gt hsp]
  refine ⟨_, exec_completes (by simpa using hpc) ?_ hstack, fun u k hmem hk => ?_⟩
  · simp [Instr.registerOperands, isRegister_of_toNat_eq ha]
  · have hadr : u8 (u.pc.toNat + k) = u8 (s.sp.toNat - 1) := BitVec.eq_of_toNat_eq <| by
      rw [decremented_toNat, u8_toNat, hk]
    rw [State.fetchByte, hadr, State.load_congr hmem, effect_load_push, regOf_eq ha, if_neg hra]

end Sys2Proof.Machine

/-! SUPPORT. What the three fetched bytes decode to, said once, and where the bytes of a booted program stand. -/

namespace Sys2Proof

/-! ### Operand bytes -/

theorem Instr.operandBytes_length (i : Instr) : i.operandBytes.length = operandCount i.opcode := by
  have h := i.length_eq_encode
  rw [Instr.length, instrLength, encode, List.length_cons] at h
  omega

theorem Instr.operandBytes_length_le_two (i : Instr) : i.operandBytes.length ≤ 2 := by
  cases i <;> simp [Instr.operandBytes]

/-! ### The decoder -/

/-- The operand bytes of a decoded instruction are the first `op[7:6]` of the two fetched after the opcode byte (R45, R46). -/
theorem operandBytes_of_decodeFetched {op a b : Byte} {i : Instr} (h : decodeFetched op a b = .ok i) :
    i.operandBytes = [a, b].take (operandCount op) := by
  unfold decodeFetched at h
  split at h <;> cases h <;> rfl

/-- The decoder reads an instruction back from its opcode byte and from bytes that begin with its operand bytes. -/
theorem decodeFetched_opcode {i : Instr} {a b : Byte} (h : i.operandBytes = [a, b].take (operandCount i.opcode)) :
    decodeFetched i.opcode a b = .ok i := by
  cases i
  case hlt | ret => rfl
  case ldi | mul | add | cmp =>
    obtain ⟨rfl, rfl⟩ : _ = a ∧ _ = b := by simpa [Instr.operandBytes, Instr.opcode, operandCount] using h
    rfl
  all_goals
    obtain rfl : _ = a := by simpa [Instr.operandBytes, Instr.opcode, operandCount] using h
    rfl

theorem decodeFetched_eq_ok_iff {op a b : Byte} {i : Instr} :
    decodeFetched op a b = .ok i ↔ i.opcode = op ∧ i.operandBytes = [a, b].take (operandCount op) := by
  refine ⟨fun h => ⟨decodeFetched_ok_opcode h, operandBytes_of_decodeFetched h⟩, ?_⟩
  rintro ⟨rfl, h⟩
  exact decodeFetched_opcode h

/-- The list decoder answers what the fetch decoder answers, once the list holds the operand bytes. -/
theorem decode_cons_eq_ok_iff {op : Byte} {tail rest : List Byte} {i : Instr} :
    decode (op :: tail) = .ok (i, rest) ↔
      decodeFetched op (tail.getD 0 0) (tail.getD 1 0) = .ok i ∧ operandCount op ≤ tail.length ∧
        tail.drop (operandCount op) = rest := by
  rw [decode]
  cases decodeFetched op (tail.getD 0 0) (tail.getD 1 0) with
  | error r => simp
  | ok j => by_cases hlen : tail.length < operandCount op <;> simp [hlen, Nat.not_lt.mp]

/-- The first bytes of a list that holds them, read one by one. -/
theorem take_getD_pair {n : Nat} {l : List Byte} (htwo : n ≤ 2) (hlen : n ≤ l.length) :
    [l.getD 0 0, l.getD 1 0].take n = l.take n := by
  refine List.ext_getElem (by simp; omega) fun j _ hj => ?_
  have hjn : j < n := hj.trans_le (List.length_take_le n l)
  rw [List.getElem_take, List.getElem_take]
  obtain rfl | rfl : j = 0 ∨ j = 1 := by omega
  all_goals exact (List.getElem_eq_getD 0).symm

/-- An opcode byte whose bits 7:6 are 3 is none of the 13: no instruction has three operand bytes (R46, R54). -/
theorem decodeFetched_of_operandCount_three {op a b : Byte} (h : operandCount op = 3) :
    decodeFetched op a b = .error (.illegalOpcode op) := by
  cases hd : decodeFetched op a b with
  | error r => rw [decodeFetched_error hd]
  | ok i =>
    have hlen := i.operandBytes_length
    have htwo := i.operandBytes_length_le_two
    rw [decodeFetched_ok_opcode hd] at hlen
    omega

end Sys2Proof

namespace Sys2Proof.Machine

/-! ### The bytes of a placed program (R97, R99) -/

/-- Placing bytes from `k` up leaves the bytes below `k`. -/
theorem State.load_placeBytes_of_lt {bs : List Byte} {k j : Nat} (s : State) (hfit : k + bs.length ≤ 256) (hj : j < k) :
    (State.placeBytes k bs s).load (u8 j) = s.load (u8 j) := by
  induction bs generalizing k s with
  | nil => rfl
  | cons b bs ih =>
    rw [List.length_cons] at hfit
    have hne : u8 j ≠ u8 k := fun h => by
      have := congrArg BitVec.toNat h
      rw [u8_toNat, u8_toNat] at this
      omega
    rw [State.placeBytes, ih _ (by omega) (by omega), State.load_store_ne _ _ hne]

/-- Each placed byte stands at its address, the last one at 0xFF at most. -/
theorem State.load_placeBytes {bs : List Byte} {k j : Nat} (s : State) (hfit : k + bs.length ≤ 256) (hj : j < bs.length) :
    (State.placeBytes k bs s).load (u8 (k + j)) = bs[j] := by
  induction bs generalizing k j s with
  | nil => cases hj
  | cons b bs ih =>
    rw [List.length_cons] at hfit hj
    rw [State.placeBytes]
    cases j with
    | zero => rw [Nat.add_zero, State.load_placeBytes_of_lt _ (by omega) (by omega)]; simp
    | succ j =>
      have hadr : k + (j + 1) = k + 1 + j := by omega
      rw [hadr, ih _ (by omega) (by omega), List.getElem_cons_succ]

/-- A fetch from the booted memory reads the program's bytes at the pc (R58, R99). -/
theorem State.fetchByte_of_boot {program : List Byte} {s u : State} {n k : Nat} (hfit : program.length ≤ 256)
    (hmem : u.mem = (s.boot program).mem) (hpc : u.pc = u8 n) (hk : n + k < program.length) :
    u.fetchByte k = program[n + k] := by
  have hn : u.pc.toNat = 0 + n := by rw [hpc, u8_toNat]; omega
  rw [State.fetchByte, hn, Nat.add_assoc, State.load_congr hmem, State.boot, State.load_afterReset,
    State.load_placeBytes s (by omega) hk]

/-! ### The fetched instruction -/

/-- A fetch of an instruction's encoding decodes to it, whatever stands after the encoding (R45, R58, R59). -/
theorem State.fetched_of_encode {s : State} {i : Instr}
    (h : ∀ k (hk : k < (encode i).length), s.fetchByte k = (encode i)[k]) : s.fetched = .ok i := by
  have hop : s.fetchByte 0 = i.opcode := h 0 (by simp [encode])
  have hoperand (j : Nat) (hj : j < i.operandBytes.length) : s.fetchByte (j + 1) = i.operandBytes[j] :=
    h (j + 1) (by simpa [encode] using hj)
  have htwo := i.operandBytes_length_le_two
  refine decodeFetched_eq_ok_iff.mpr ⟨hop.symm, ?_⟩
  rw [hop, ← i.operandBytes_length]
  refine List.ext_getElem (by simp; omega) fun j hj _ => ?_
  obtain rfl | rfl : j = 0 ∨ j = 1 := by omega
  all_goals simp [← hoperand _ hj]

/-- A step of a RUNNING machine runs the instruction it fetched (R57, R64). -/
theorem step_of_fetched {s : State} {i : Instr} (hr : s.runState = .running) (hi : s.fetched = .ok i) :
    step s = exec i s := by
  simp only [step, hr, hi]

theorem assemble_append_cons (before after : List Instr) (i : Instr) :
    assemble (before ++ i :: after) = assemble before ++ (encode i ++ assemble after) := by
  simp [assemble]

/-- At the address of an instruction of the booted program, the fetch decodes to that instruction. -/
theorem State.fetched_of_boot {before after : List Instr} {i : Instr} {s u : State}
    (hfit : (assemble (before ++ i :: after)).length ≤ 256)
    (hmem : u.mem = (s.boot (assemble (before ++ i :: after))).mem) (hpc : u.pc = u8 (assemble before).length) :
    u.fetched = .ok i := by
  rw [assemble_append_cons] at hfit hmem
  refine State.fetched_of_encode fun k hk => ?_
  rw [State.fetchByte_of_boot hfit hmem hpc (by simp; omega)]
  simp [List.getElem_append_left hk]

/-! ### The statements of this family -/

/-- Settles O1: both sides say that the list begins with the opcode byte, then the operand bytes, then the rest. -/
theorem decodeIsInverseOfEncode : Obligations.DecodeIsInverseOfEncode := by
  intro i bytes rest
  cases bytes with
  | nil => simp [decode, encode]
  | cons op tail =>
    rw [decode_cons_eq_ok_iff, decodeFetched_eq_ok_iff, encode, List.cons_append, List.cons_eq_cons]
    have hcount := i.operandBytes_length
    have htwo := i.operandBytes_length_le_two
    constructor
    · rintro ⟨⟨rfl, hoperands⟩, hlen, rfl⟩
      rw [take_getD_pair (hcount ▸ htwo) hlen] at hoperands
      exact ⟨rfl, by rw [hoperands, List.take_append_drop]⟩
    · rintro ⟨rfl, rfl⟩
      have hlen : operandCount i.opcode ≤ (i.operandBytes ++ rest).length := by simp [hcount]
      rw [take_getD_pair (hcount ▸ htwo) hlen, ← hcount]
      simp

/-- Settles O45: the fetch at an instruction's address reads its encoding, which decodes to it. -/
theorem bootedProgramRunsAsAssembled : Obligations.BootedProgramRunsAsAssembled := by
  intro before after i s hfit
  refine ⟨fun u hmem hr hpc => step_of_fetched hr (State.fetched_of_boot hfit hmem hpc), ?_⟩
  rintro rfl
  exact step_of_fetched rfl (State.fetched_of_boot (before := []) hfit rfl rfl)

/-- Settles O2: an instruction has `op[7:6]` operand bytes, at most 2, so the decoder knows no opcode byte with 3. -/
theorem lengthComesFromOpcodeBits : Obligations.LengthComesFromOpcodeBits :=
  ⟨fun i => ⟨i.opcode, i.operandBytes, rfl, i.operandBytes_length, i.operandBytes_length_le_two, rfl⟩,
    fun _ _ _ => decodeFetched_of_operandCount_three⟩

/-- Settles O3: each word is evaluated through the decoder. -/
theorem sampleWordsDecode : Obligations.SampleWordsDecode := by
  unfold Obligations.SampleWordsDecode
  decide

end Sys2Proof.Machine

/-! SUPPORT. The execution cycle: which opcode bytes are recognized, that fault entry is the only way to FAULTED, and that HLT never faults. -/

namespace Sys2Proof

/-- The opcode bytes of R52's table, in its order. -/
def recognizedOpcodes : List Byte := [0x01, 0x99, 0x43, 0xAA, 0x4C, 0x4D, 0x48, 0x09, 0xA8, 0x50, 0x51, 0x52, 0xA0]

theorem Instr.opcode_mem_recognizedOpcodes (i : Instr) : i.opcode ∈ recognizedOpcodes := by
  cases i <;> simp [recognizedOpcodes, Instr.opcode]

/-- The decoder answers an instruction for each of the 13 opcode bytes (R52, R53). -/
theorem exists_decodeFetched_eq_ok {op : Byte} (a b : Byte) (h : op ∈ recognizedOpcodes) :
    ∃ i, decodeFetched op a b = .ok i := by
  simp only [recognizedOpcodes, List.mem_cons, List.not_mem_nil, or_false] at h
  rcases h with rfl | rfl | rfl | rfl | rfl | rfl | rfl | rfl | rfl | rfl | rfl | rfl | rfl
  all_goals exact ⟨_, rfl⟩

/-- The decoder rejects every other opcode byte, whatever the bytes after it (R53, R60). -/
theorem decodeFetched_of_unrecognized {op a b : Byte} (h : op ∉ recognizedOpcodes) :
    decodeFetched op a b = .error (.illegalOpcode op) := by
  cases hd : decodeFetched op a b with
  | error r => rw [decodeFetched_error hd]
  | ok i => exact absurd (decodeFetched_ok_opcode hd ▸ i.opcode_mem_recognizedOpcodes) h

end Sys2Proof

namespace Sys2Proof.Machine

/-- An unrecognized opcode byte at the pc is the first fault of a step, with FAULT_INFO 0 (R60, R87). -/
theorem stepFault_of_unrecognized {s : State} (h : s.load s.pc ∉ recognizedOpcodes) : stepFault s = some (1, 0) := by
  rw [← s.fetchByte_zero] at h
  have hfetched : s.fetched = .error (.illegalOpcode (s.fetchByte 0)) := decodeFetched_of_unrecognized h
  simp only [stepFault, hfetched]

/-- A step of a RUNNING machine that ends FAULTED is a fault entry: no effect enters FAULTED (R66, R86). -/
theorem eq_faultedWith_of_step_faulted {s t : State} (hr : s.runState = .running) (hs : step s = .next t)
    (ht : t.runState = .faulted) : ∃ c f, t = s.faultedWith c (s.load s.pc) f := by
  rcases step_cases s with ⟨hstopped, -⟩ | ⟨-, c, f, -, hs'⟩ | ⟨-, i, -, -, hs'⟩
  · exact absurd hr hstopped
  · exact ⟨c, f, Host.Outcome.next.inj (hs.symm.trans hs')⟩
  · obtain rfl : t = effect i s := Host.Outcome.next.inj (hs.symm.trans hs')
    exact absurd ht (effect_not_faulted i (by simp [hr]))

/-- HLT is one byte long, names no register and needs no successor, so no check stops it (R61 to R63, R69). -/
theorem instrFault_hlt (s : State) : instrFault .hlt s = none := by
  have hpc := s.pc.isLt
  refine (instrFault_eq_none_iff .hlt s).mpr ⟨?_, ?_, ?_, rfl⟩
  · rw [Instr.length_hlt]; omega
  · simp [Instr.registerOperands]
  · simp [needsSuccessor]

/-! ### The statements of this family -/

/-- Settles O8: the step is a fault entry, which writes the fault record and the run state only. -/
theorem faultsArePrecise : Obligations.FaultsArePrecise := by
  intro s t hr hs ht
  obtain ⟨c, f, rfl⟩ := eq_faultedWith_of_step_faulted hr hs ht
  exact ⟨fun _ _ => rfl, rfl, rfl, fun _ => rfl, rfl, rfl, rfl⟩

/-- Settles O32: a fault enters FAULTED, and of the effects only HLT's, which no check stops, writes the run state. -/
theorem runStateChangesOnlyByHltOrFault : Obligations.RunStateChangesOnlyByHltOrFault := by
  refine fun i s => ⟨outcome i s, exec_eq i s, fun hf => ?_, ?_, fun hf hi => ?_, instrFault_hlt s⟩
  · obtain ⟨⟨c, f⟩, hcf⟩ := Option.ne_none_iff_exists'.mp hf
    rw [outcome_of_fault hcf, State.faultedWith_runState]
  · rintro hf rfl
    rw [outcome_of_noFault hf]
    exact ⟨effect_runState_hlt s, rfl⟩
  · rw [outcome_of_noFault hf, effect_runState hi]

/-- Settles O5: the list decoder answers on three bytes what the fetch decoder answers, and a step runs that. -/
theorem stepRunsDecodedInstruction : Obligations.StepRunsDecodedInstruction := by
  intro s i rest hr hd
  obtain ⟨hfetch, -, -⟩ := decode_cons_eq_ok_iff.mp hd
  rw [← s.fetchByte_zero] at hfetch
  exact step_of_fetched hr hfetch

/-- Settles O6: an opcode byte outside the 13 is a fault of the step; one of the 13 decodes to an instruction with that opcode. -/
theorem unrecognizedOpcodeFaults : Obligations.UnrecognizedOpcodeFaults := by
  refine fun s hr => ⟨fun hop => step_of_fault hr (stepFault_of_unrecognized hop), fun hop => ?_⟩
  rw [← s.fetchByte_zero] at hop ⊢
  obtain ⟨i, hi⟩ := exists_decodeFetched_eq_ok (s.fetchByte 1) (s.fetchByte 2) hop
  exact ⟨i, decodeFetched_ok_opcode hi, step_of_fetched hr hi⟩

/-- Settles O10: HALTED and FAULTED are the run states other than RUNNING, outside which a step does nothing (R56). -/
theorem stoppedStepChangesNothing : Obligations.StoppedStepChangesNothing := by
  intro s h
  have hr : s.runState ≠ .running := by rcases h with h | h <;> simp [h]
  exact ⟨step_stopped hr, stepEvents_stopped hr⟩

end Sys2Proof.Machine

/-! SUPPORT. The faults of checks 2 to 4 as `exec` raises them, and the pc and the register that HLT, LDI and PRN leave. -/

namespace Sys2Proof.Machine

/-! ### Checks 2 to 4 as `exec` makes them (R61 to R63, R87) -/

section

variable {i : Instr} {n : Nat} (hlen : i.length = n) (s : State)
include hlen

/-- FETCH_OVERRUN with the instruction's length as FAULT_INFO (R61). -/
theorem exec_overrun_of_length (hpc : 256 < s.pc.toNat + n) :
    exec i s = .next (s.faultedWith 2 i.opcode (u8 n)) := by
  subst hlen
  exact exec_overrun i s hpc

/-- Inside memory, the first operand byte that names no register raises BAD_REGISTER (R62). -/
theorem exec_badRegister {b : Byte} (hpc : s.pc.toNat + n ≤ 256)
    (hb : i.registerOperands.find? (fun x => !isRegister x) = some b) :
    exec i s = .next (s.faultedWith 3 i.opcode b) := by
  have hf : instrFault i s = some (3, b) := by rw [instrFault_eq, if_neg (by omega), hb]
  rw [exec_eq, outcome_of_fault hf]

/-- Operand a is checked before any other (R62). -/
theorem exec_badRegister_first {a : Byte} {rest : List Byte} (hops : i.registerOperands = a :: rest)
    (hpc : s.pc.toNat + n ≤ 256) (ha : 7 < a.toNat) : exec i s = .next (s.faultedWith 3 i.opcode a) := by
  have hbad : (!isRegister a) = true := by simp [isRegister]; omega
  exact exec_badRegister hlen s hpc (by rw [hops]; exact List.find?_cons_of_pos hbad)

/-- An instruction that ends at 0xFF, and needs its successor, raises PC_OVERFLOW (R63). -/
theorem exec_pcOverflow (hn : needsSuccessor i s.fl = true) (hpc : s.pc.toNat + n = 256)
    (hregs : ∀ b ∈ i.registerOperands, isRegister b = true) :
    exec i s = .next (s.faultedWith 4 i.opcode (u8 n)) := by
  subst hlen
  have hfind : i.registerOperands.find? (fun x => !isRegister x) = none := by simpa using hregs
  have hf : instrFault i s = some (4, u8 i.length) := by
    rw [instrFault_eq, if_neg (by omega), hfind]
    exact if_pos ⟨hn, by omega⟩
  rw [exec_eq, outcome_of_fault hf]

end

/-- The one register operand of an instruction passes check 3 when its byte is at most 7 (R19, R62). -/
theorem isRegister_of_singleOperand {i : Instr} {a : Byte} (hops : i.registerOperands = [a]) (ha : a.toNat ≤ 7) :
    ∀ b ∈ i.registerOperands, isRegister b = true := by
  have hreg : isRegister a = true := by simp [isRegister]; omega
  simpa [hops] using hreg

/-! ### The effects of HLT, LDI and PRN -/

@[simp] theorem effect_pc_hlt (s : State) : (effect .hlt s).pc = u8 (s.pc.toNat + 1) := rfl

@[simp] theorem effect_pc_ldi (a imm : Byte) (s : State) : (effect (.ldi a imm) s).pc = u8 (s.pc.toNat + 3) := rfl

@[simp] theorem effect_pc_prn (a : Byte) (s : State) : (effect (.prn a) s).pc = u8 (s.pc.toNat + 2) := rfl

/-- LDI writes the immediate to the register its operand byte names, and to no other (R70). -/
theorem effect_readReg_ldi (a imm : Byte) (s : State) (r : RegIdx) :
    (effect (.ldi a imm) s).readReg r = if r = regOf a then imm else s.readReg r :=
  s.readReg_writeReg (regOf a) r imm

/-- The effect of every instruction but HLT leaves the run state, the fault record and SP_INDEX (R66, R86). -/
theorem effect_sameStatus {i : Instr} (h : i ≠ .hlt) (s : State) : SameStatus s (effect i s) :=
  ⟨effect_runState h s, effect_sameRecord i s⟩

/-! ### The statements of this family -/

/-- Settles O13: no check stops HLT, and its effect is the advance and the run state. -/
theorem hltAdvancesAndHalts : Obligations.HltAdvancesAndHalts := by
  refine fun s => ⟨rfl, effect .hlt s, ?_, ?_, rfl, fun _ _ => rfl, rfl, fun _ => rfl, rfl, effect_sameRecord .hlt s⟩
  · rw [exec_eq, outcome_of_noFault (instrFault_hlt s)]
  · rw [effect_pc_hlt, u8_toNat]

/-- Settles O14: the checks of LDI in their order, then its effect, which reaches SP through SP_INDEX like any register (R17). -/
theorem ldiLoadsImmediate : Obligations.LdiLoadsImmediate := by
  intro a imm s
  have hlen : (Instr.ldi a imm).length = 3 := Instr.length_ldi a imm
  have hregs := isRegister_of_singleOperand (i := .ldi a imm) rfl
  refine ⟨rfl, fun hpc => exec_overrun_of_length hlen s (by omega),
    fun hpc ha => exec_badRegister_first hlen s rfl (by omega) ha,
    fun hpc ha => exec_pcOverflow hlen s rfl (by omega) (hregs ha), fun ra ha hpc => ?_⟩
  have hexec : exec (.ldi a imm) s = .next (effect (.ldi a imm) s) :=
    exec_completes (by omega) (hregs (by omega)) rfl
  have hread := effect_readReg_ldi a imm s
  rw [regOf_eq ha] at hread
  refine ⟨_, hexec, ?_, ?_, fun hsp => ?_, fun r hr => ?_, rfl, fun _ => rfl, rfl, effect_sameStatus (by simp) s⟩
  · rw [effect_pc_ldi, u8_toNat]; omega
  · rw [hread, if_pos rfl]
  · exact (hread s.spIndex).trans (if_pos hsp.symm)
  · rw [hread, if_neg (by simpa using hr)]

/-- Settles O15: the checks of PRN in their order, then its effect, which emits the register's value and advances. -/
theorem prnEmitsRegister : Obligations.PrnEmitsRegister := by
  intro a s
  have hlen : (Instr.prn a).length = 2 := Instr.length_prn a
  have hregs := isRegister_of_singleOperand (i := .prn a) rfl
  refine ⟨rfl, fun hpc => exec_overrun_of_length hlen s (by omega),
    fun hpc ha => exec_badRegister_first hlen s rfl (by omega) ha,
    fun hpc ha => exec_pcOverflow hlen s rfl (by omega) (hregs ha), fun ra ha hpc => ?_⟩
  have hexec : exec (.prn a) s = .next (effect (.prn a) s) := exec_completes (by omega) (hregs (by omega)) rfl
  refine ⟨_, hexec, ?_, ?_, fun _ _ => rfl, rfl, fun _ => rfl, effect_sameStatus (by simp) s⟩
  · rw [effect_pc_prn, u8_toNat]; omega
  · rw [effect_output_prn, regOf_eq ha]

end Sys2Proof.Machine

/-! SUPPORT. The faults and the completion that MUL, ADD and CMP share, the effect of the ALU's instructions for both operation tags, and the one flag a comparison sets. -/

namespace Sys2Proof.Machine

/-! ### Instructions with two register operands (R61 to R65) -/

theorem isRegister_iff_le_seven {b : Byte} : isRegister b = true ↔ b.toNat ≤ 7 := by
  simp [isRegister]; omega

section

variable {i : Instr} {a b : Byte} (hlen : i.length = 3) (hops : i.registerOperands = [a, b]) (s : State)
include hlen hops

/-- Operand b is checked once operand a has passed (R62). -/
theorem exec_badRegister_second (hpc : s.pc.toNat ≤ 253) (ha : a.toNat ≤ 7) (hb : 7 < b.toNat) :
    exec i s = .next (s.faultedWith 3 i.opcode b) := by
  have hgood : isRegister a = true := isRegister_iff_le_seven.mpr ha
  have hbad : isRegister b = false := Bool.eq_false_iff.mpr fun h => by have := isRegister_iff_le_seven.mp h; omega
  exact exec_badRegister hlen s (by omega) (by simp [hops, hgood, hbad])

/-- The faults of checks 2 to 4, in the order of the checks (R87). -/
theorem exec_twoRegisters_faults (hn : needsSuccessor i s.fl = true) :
    (s.pc.toNat ≥ 254 → exec i s = .next (s.faultedWith 2 i.opcode 3)) ∧
    (s.pc.toNat ≤ 253 → a.toNat > 7 → exec i s = .next (s.faultedWith 3 i.opcode a)) ∧
    (s.pc.toNat ≤ 253 → a.toNat ≤ 7 → b.toNat > 7 → exec i s = .next (s.faultedWith 3 i.opcode b)) ∧
    (s.pc.toNat = 253 → a.toNat ≤ 7 → b.toNat ≤ 7 → exec i s = .next (s.faultedWith 4 i.opcode 3)) := by
  refine ⟨fun hpc => exec_overrun_of_length hlen s (by omega),
    fun hpc ha => exec_badRegister_first hlen s hops (by omega) ha, exec_badRegister_second hlen hops s,
    fun hpc ha hb => exec_pcOverflow hlen s hn (by omega) ?_⟩
  simp [hops, isRegister_iff_le_seven, ha, hb]

/-- With both operands naming registers and a successor in memory, the instruction completes (R65). -/
theorem exec_twoRegisters_completes {ra rb : RegIdx} (hs : stackFault i s = none) (ha : a.toNat = ra.val)
    (hb : b.toNat = rb.val) (hpc : s.pc.toNat ≤ 252) : exec i s = .next (effect i s) :=
  exec_completes (by omega) (by simp [hops, isRegister_of_toNat_eq ha, isRegister_of_toNat_eq hb]) hs

end

/-- The pc that MUL, ADD and CMP leave is the exact sum (R65). -/
theorem effect_pc_toNat_of_length_three {i : Instr} {s : State} (hlen : i.length = 3)
    (hn : needsSuccessor i s.fl = true) (hcall : ∀ a, i ≠ .call a) (hpc : s.pc.toNat ≤ 252) :
    (effect i s).pc.toNat = s.pc.toNat + 3 := by
  rw [effect_pc_of_needsSuccessor hn hcall, hlen, u8_toNat]
  omega

/-! ### The ALU's two instructions (R72 to R74) -/

theorem alu_add_toNat (a b : Byte) : (alu .add a b).toNat = (a.toNat + b.toNat) % 256 := u8_toNat _

theorem alu_mul_toNat (a b : Byte) : (alu .mul a b).toNat = a.toNat * b.toNat % 256 := u8_toNat _

/-- The instruction that applies an operation tag to two registers (R73, R74). -/
def AluOp.instr : AluOp → Byte → Byte → Instr
  | .add => .add
  | .mul => .mul

/-- Both write ALU(op, x[a], x[b]) to x[a], and no other register (R73, R74). -/
theorem effect_readReg_aluInstr (op : AluOp) (a b : Byte) (s : State) (r : RegIdx) :
    (effect (op.instr a b) s).readReg r =
      if r = regOf a then alu op (s.readReg (regOf a)) (s.readReg (regOf b)) else s.readReg r := by
  cases op <;> exact s.readReg_writeReg (regOf a) r _

/-- A completed ALU instruction: the advance, the ALU's value of the old operands, and the frame (R65, R73, R74). -/
theorem exec_aluInstr_completes (op : AluOp) {a b : Byte} {ra rb : RegIdx} {s : State} (ha : a.toNat = ra.val)
    (hb : b.toNat = rb.val) (hpc : s.pc.toNat ≤ 252) :
    ∃ t, exec (op.instr a b) s = .next t ∧ t.pc.toNat = s.pc.toNat + 3 ∧
      t.readReg ra = alu op (s.readReg ra) (s.readReg rb) ∧
      SameRegsBut [ra] s t ∧ t.fl = s.fl ∧ SameMem s t ∧ t.output = s.output ∧ SameStatus s t := by
  have hlen : (op.instr a b).length = 3 := by cases op <;> simp [AluOp.instr]
  have hops : (op.instr a b).registerOperands = [a, b] := by cases op <;> rfl
  have hn : needsSuccessor (op.instr a b) s.fl = true := by cases op <;> rfl
  have hs : stackFault (op.instr a b) s = none := by cases op <;> rfl
  have hread := effect_readReg_aluInstr op a b s
  rw [regOf_eq ha, regOf_eq hb] at hread
  refine ⟨_, exec_twoRegisters_completes hlen hops s hs ha hb hpc,
    effect_pc_toNat_of_length_three hlen hn ?_ hpc, by rw [hread, if_pos rfl],
    fun r hr => by rw [hread, if_neg (by simpa using hr)], ?_⟩
  · cases op <;> simp [AluOp.instr]
  · cases op <;> exact ⟨rfl, fun _ => rfl, rfl, effect_sameStatus (by simp [AluOp.instr]) s⟩

/-! ### CMP (R75, R76) -/

/-- A comparison sets exactly one of EQF, GTF and LTF, the one that says the unsigned order (R75, R76). -/
theorem compareFlags_sets_one_flag (va vb : Byte) :
    (eqf (compareFlags va vb) = true ∧ gtf (compareFlags va vb) = false ∧ ltf (compareFlags va vb) = false ∧
      compareFlags va vb = 0x01 ∧ va = vb) ∨
    (eqf (compareFlags va vb) = false ∧ gtf (compareFlags va vb) = true ∧ ltf (compareFlags va vb) = false ∧
      compareFlags va vb = 0x02 ∧ va.toNat > vb.toNat) ∨
    (eqf (compareFlags va vb) = false ∧ gtf (compareFlags va vb) = false ∧ ltf (compareFlags va vb) = true ∧
      compareFlags va vb = 0x04 ∧ va.toNat < vb.toNat) := by
  rcases Nat.lt_trichotomy va.toNat vb.toNat with h | h | h
  · rw [compareFlags_lt h]; exact .inr (.inr ⟨rfl, rfl, rfl, rfl, h⟩)
  · rw [compareFlags_eq h]; exact .inl ⟨rfl, rfl, rfl, rfl, BitVec.eq_of_toNat_eq h⟩
  · rw [compareFlags_gt h]; exact .inr (.inl ⟨rfl, rfl, rfl, rfl, h⟩)

/-- A completed CMP: the advance, FL from the two register values alone, and the frame (R65, R75, R76). -/
theorem exec_cmp_completes {a b : Byte} {ra rb : RegIdx} {s : State} (ha : a.toNat = ra.val) (hb : b.toNat = rb.val)
    (hpc : s.pc.toNat ≤ 252) :
    ∃ t, exec (.cmp a b) s = .next t ∧ t.pc.toNat = s.pc.toNat + 3 ∧
      t.fl = compareFlags (s.readReg ra) (s.readReg rb) ∧
      SameRegsBut [] s t ∧ SameMem s t ∧ t.output = s.output ∧ SameStatus s t := by
  have hlen : (Instr.cmp a b).length = 3 := Instr.length_cmp a b
  refine ⟨_, exec_twoRegisters_completes hlen rfl s rfl ha hb hpc,
    effect_pc_toNat_of_length_three hlen rfl (by simp) hpc, ?_, fun _ _ => rfl, fun _ => rfl, rfl,
    effect_sameStatus (by simp) s⟩
  rw [effect_fl_cmp, regOf_eq ha, regOf_eq hb]

/-- The operand byte written from a register number names that register (R51). -/
theorem u8_regIdx_toNat (r : RegIdx) : (u8 r.val).toNat = r.val := by
  have := r.isLt
  rw [u8_toNat]; omega

/-! ### The statements of this family -/

/-- Settles O16: the checks of MUL in their order, then the ALU's product of the old values. -/
theorem mulMultipliesModulo256 : Obligations.MulMultipliesModulo256 := by
  intro a b s
  obtain ⟨hoverrun, hbadA, hbadB, hoverflow⟩ := exec_twoRegisters_faults (Instr.length_mul a b) rfl s rfl
  refine ⟨rfl, hoverrun, hbadA, hbadB, hoverflow, fun ra rb ha hb hpc => ?_⟩
  obtain ⟨t, hexec, hnext, hread, hframe⟩ := exec_aluInstr_completes .mul ha hb hpc
  exact ⟨t, hexec, hnext, by rw [hread, alu_mul_toNat], hframe⟩

/-- Settles O17: the checks of ADD in their order, then the ALU's sum of the old values. -/
theorem addAddsModulo256 : Obligations.AddAddsModulo256 := by
  intro a b s
  obtain ⟨hoverrun, hbadA, hbadB, hoverflow⟩ := exec_twoRegisters_faults (Instr.length_add a b) rfl s rfl
  refine ⟨rfl, hoverrun, hbadA, hbadB, hoverflow, fun ra rb ha hb hpc => ?_⟩
  obtain ⟨t, hexec, hnext, hread, hframe⟩ := exec_aluInstr_completes .add ha hb hpc
  exact ⟨t, hexec, hnext, by rw [hread, alu_add_toNat], hframe⟩

/-- Settles O18: the checks of CMP in their order, then the comparison's value in each of the three orders. -/
theorem cmpWritesFlags : Obligations.CmpWritesFlags := by
  intro a b s
  obtain ⟨hoverrun, hbadA, hbadB, hoverflow⟩ := exec_twoRegisters_faults (Instr.length_cmp a b) rfl s rfl
  refine ⟨rfl, hoverrun, hbadA, hbadB, hoverflow, fun ra rb ha hb hpc => ?_⟩
  obtain ⟨t, hexec, hnext, hfl, hframe⟩ := exec_cmp_completes ha hb hpc
  exact ⟨t, hexec, hnext, fun h => hfl.trans (compareFlags_eq h), fun h => hfl.trans (compareFlags_gt h),
    fun h => hfl.trans (compareFlags_lt h), hframe⟩

/-- Settles O26: each tag's value by its own lemma, and the tags by cases. -/
theorem aluWrapsModulo256 : Obligations.AluWrapsModulo256 := by
  refine ⟨fun a b => ⟨alu_add_toNat a b, alu_mul_toNat a b⟩, fun op => ?_⟩
  cases op with
  | add => exact .inl rfl
  | mul => exact .inr rfl

/-- Settles O27: FL after CMP is the comparison of the two registers, on which the states agree. -/
theorem cmpSetsExactlyOneFlag : Obligations.CmpSetsExactlyOneFlag := by
  intro ra rb s s' hpc hpc' hra hrb
  obtain ⟨t, hexec, -, hfl, -⟩ := exec_cmp_completes (u8_regIdx_toNat ra) (u8_regIdx_toNat rb) hpc
  obtain ⟨t', hexec', -, hfl', -⟩ := exec_cmp_completes (u8_regIdx_toNat ra) (u8_regIdx_toNat rb) hpc'
  refine ⟨t, t', hexec, hexec', by rw [hfl, hfl', hra, hrb], ?_⟩
  rw [hfl]
  exact compareFlags_sets_one_flag _ _

end Sys2Proof.Machine

/-! SUPPORT. The faults and the completion that PUSH and POP share, what each leaves in SP, in the registers and in memory, and the two in sequence. -/

namespace Sys2Proof.Machine

/-! ### Two-byte instructions with one register operand that need their successor (R61 to R65, R87) -/

/-- With checks 2 to 4 passed, the fault of the handler's own check is the one raised (R87). -/
theorem exec_stackFault {i : Instr} {s : State} {c f : Byte} (hpc : s.pc.toNat + i.length ≤ 255)
    (hregs : ∀ b ∈ i.registerOperands, isRegister b = true) (hs : stackFault i s = some (c, f)) :
    exec i s = .next (s.faultedWith c i.opcode f) := by
  have hfind : i.registerOperands.find? (fun x => !isRegister x) = none := by simpa using hregs
  have hf : instrFault i s = some (c, f) := by
    rw [instrFault_eq, if_neg (by omega), hfind]
    exact (if_neg (by omega)).trans hs
  rw [exec_eq, outcome_of_fault hf]

/-- The faults of checks 2 to 4, in the order of the checks (R87). -/
theorem exec_oneRegister_faults {i : Instr} {a : Byte} (hlen : i.length = 2) (hops : i.registerOperands = [a])
    (s : State) (hn : needsSuccessor i s.fl = true) :
    (s.pc.toNat = 255 → exec i s = .next (s.faultedWith 2 i.opcode 2)) ∧
    (s.pc.toNat ≤ 254 → a.toNat > 7 → exec i s = .next (s.faultedWith 3 i.opcode a)) ∧
    (s.pc.toNat = 254 → a.toNat ≤ 7 → exec i s = .next (s.faultedWith 4 i.opcode 2)) :=
  ⟨fun hpc => exec_overrun_of_length hlen s (by omega),
    fun hpc ha => exec_badRegister_first hlen s hops (by omega) ha,
    fun hpc ha => exec_pcOverflow hlen s hn (by omega) (isRegister_of_singleOperand hops ha)⟩

/-- The pc that PUSH and POP leave is the exact sum (R65). -/
theorem effect_pc_toNat_of_length_two {i : Instr} {s : State} (hlen : i.length = 2)
    (hn : needsSuccessor i s.fl = true) (hcall : ∀ a, i ≠ .call a) (hpc : s.pc.toNat ≤ 253) :
    (effect i s).pc.toNat = s.pc.toNat + 2 := by
  rw [effect_pc_of_needsSuccessor hn hcall, hlen, u8_toNat]
  omega

theorem SameStatus.spIndex_eq {s t : State} (h : SameStatus s t) : t.spIndex = s.spIndex := by
  obtain ⟨-, -, -, -, -, hidx⟩ := h
  exact hidx

/-! ### PUSH (R77) -/

theorem stackFault_push (a : Byte) (s : State) :
    stackFault (.push a) s = if s.sp.toNat = 0 then some (5, 0) else none := rfl

/-- PUSH writes no byte but the one below the old SP (R77). -/
theorem effect_sameMemBut_push (a : Byte) (s : State) :
    SameMemBut (u8 (s.sp.toNat - 1)) s (effect (.push a) s) := by
  intro adr hadr
  by_contra hne
  exact hadr (effect_load_ne hne).right

/-- A completed PUSH: the advance, the new SP, the byte it stores (D18 for SP itself), and the frame (R65, R77). -/
theorem exec_push_completes {a : Byte} {ra : RegIdx} {s : State} (ha : a.toNat = ra.val) (hpc : s.pc.toNat ≤ 253)
    (hsp : s.sp.toNat > 0) :
    ∃ t, exec (.push a) s = .next t ∧ t.pc.toNat = s.pc.toNat + 2 ∧ t.sp.toNat = s.sp.toNat - 1 ∧
      SameMemBut (u8 (s.sp.toNat - 1)) s t ∧
      (ra ≠ s.spIndex → t.load (u8 (s.sp.toNat - 1)) = s.readReg ra) ∧
      (ra = s.spIndex → (t.load (u8 (s.sp.toNat - 1))).toNat = s.sp.toNat - 1) ∧
      SameRegsBut [s.spIndex] s t ∧ t.fl = s.fl ∧ t.output = s.output ∧ SameStatus s t := by
  have hregs : ∀ b ∈ (Instr.push a).registerOperands, isRegister b = true :=
    isRegister_of_singleOperand rfl (by omega)
  have hexec : exec (.push a) s = .next (effect (.push a) s) :=
    exec_completes (by simpa using hpc) hregs (by rw [stackFault_push, if_neg (by omega)])
  have hload := effect_load_push a s
  rw [regOf_eq ha] at hload
  refine ⟨_, hexec, effect_pc_toNat_of_length_two (Instr.length_push a) rfl (by simp) hpc, ?_,
    effect_sameMemBut_push a s, fun hra => ?_, fun hra => ?_, effect_sameRegsBut_written s hregs,
    effect_fl (by simp) s, effect_output (by simp) s, effect_sameStatus (by simp) s⟩
  · rw [effect_sp_push, decremented_toNat]
  · rw [hload, if_neg hra]
  · rw [hload, if_pos hra, decremented_toNat]

/-! ### POP (R78) -/

/-- The value POP increments: SP, or the byte it has just loaded when its operand names SP (R78, D18). -/
def popIncrements (ra : RegIdx) (s : State) : Byte := if ra = s.spIndex then s.load s.sp else s.sp

theorem popIncrements_of_ne {ra : RegIdx} {s : State} (h : ra ≠ s.spIndex) : popIncrements ra s = s.sp := if_neg h

@[simp] theorem popIncrements_spIndex (s : State) : popIncrements s.spIndex s = s.load s.sp := if_pos rfl

/-- POP's own check is on the value it increments (R78, D18). -/
theorem stackFault_pop {a : Byte} {ra : RegIdx} (ha : a.toNat = ra.val) (s : State) :
    stackFault (.pop a) s = if (popIncrements ra s).toNat = 255 then some (6, 255) else none := by
  simp only [stackFault, popIncrements, ha, Fin.ext_iff]

theorem effect_sp_pop {a : Byte} {ra : RegIdx} (ha : a.toNat = ra.val) (s : State) :
    (effect (.pop a) s).sp = u8 ((popIncrements ra s).toNat + 1) := by
  have hbase : (s.writeReg ra (s.load s.sp)).sp = popIncrements ra s := by
    simp only [State.sp_writeReg, popIncrements, eq_comm]
  rw [← hbase, ← regOf_eq ha]
  exact State.sp_writeSp _ _

/-- A register other than SP takes the byte at the old SP (R78). -/
theorem effect_readReg_pop {a : Byte} {ra : RegIdx} {s : State} (ha : a.toNat = ra.val) (hra : ra ≠ s.spIndex) :
    (effect (.pop a) s).readReg ra = s.load s.sp := by
  rw [← regOf_eq ha] at hra ⊢
  exact (State.readReg_writeReg_ne _ _ hra).trans (s.readReg_writeReg_self _ _)

/-- STACK_UNDERFLOW of a POP that would increment 255 (R78). -/
theorem exec_pop_underflows {a : Byte} {ra : RegIdx} {s : State} (ha : a.toNat = ra.val) (hpc : s.pc.toNat ≤ 253)
    (h : (popIncrements ra s).toNat = 255) : exec (.pop a) s = .next (s.faultedWith 6 0x4C 255) :=
  exec_stackFault (by simpa using hpc) (isRegister_of_singleOperand rfl (by omega))
    (by rw [stackFault_pop ha, if_pos h])

/-- A completed POP: the advance, the new SP, the register it loads, and the frame (R65, R78). -/
theorem exec_pop_completes {a : Byte} {ra : RegIdx} {s : State} (ha : a.toNat = ra.val) (hpc : s.pc.toNat ≤ 253)
    (h : (popIncrements ra s).toNat < 255) :
    ∃ t, exec (.pop a) s = .next t ∧ t.pc.toNat = s.pc.toNat + 2 ∧
      (ra ≠ s.spIndex → t.readReg ra = s.load s.sp) ∧ t.sp.toNat = (popIncrements ra s).toNat + 1 ∧
      SameRegsBut [ra, s.spIndex] s t ∧ t.fl = s.fl ∧ SameMem s t ∧ t.output = s.output ∧ SameStatus s t := by
  have hregs : ∀ b ∈ (Instr.pop a).registerOperands, isRegister b = true :=
    isRegister_of_singleOperand rfl (by omega)
  have hexec : exec (.pop a) s = .next (effect (.pop a) s) :=
    exec_completes (by simpa using hpc) hregs (by rw [stackFault_pop ha, if_neg (by omega)])
  refine ⟨_, hexec, effect_pc_toNat_of_length_two (Instr.length_pop a) rfl (by simp) hpc,
    effect_readReg_pop ha, ?_, fun r hr => effect_sameRegsBut_written s hregs r ?_, effect_fl (by simp) s,
    State.load_congr (effect_mem (by simp) (by simp) s), effect_output (by simp) s, effect_sameStatus (by simp) s⟩
  · rw [effect_sp_pop ha, u8_toNat]; omega
  · rw [registersWritten, namedRegister_eq (hregs a (.head _)), regOf_eq ha]
    simpa [and_comm] using hr

/-! ### The statements of this family -/

/-- Settles O19: the checks of PUSH in their order, its own check of SP, then its effect. -/
theorem pushStoresBelowTheStackTop : Obligations.PushStoresBelowTheStackTop := by
  intro a s
  obtain ⟨hoverrun, hbad, hoverflow⟩ := exec_oneRegister_faults (Instr.length_push a) rfl s rfl
  refine ⟨rfl, hoverrun, hbad, hoverflow, fun hpc ha hsp => ?_, fun _ => exec_push_completes⟩
  exact exec_stackFault (by simpa using hpc) (isRegister_of_singleOperand rfl ha)
    (by rw [stackFault_push, if_pos hsp])

/-- Settles O20: the checks of POP in their order, then its own check and its effect for either form of the operand. -/
theorem popLoadsFromTheStackTop : Obligations.PopLoadsFromTheStackTop := by
  intro a s
  obtain ⟨hoverrun, hbad, hoverflow⟩ := exec_oneRegister_faults (Instr.length_pop a) rfl s rfl
  refine ⟨rfl, hoverrun, hbad, hoverflow, fun ra ha hpc hra => ?_, fun ha hpc => ?_⟩
  · have hunderflow := exec_pop_underflows ha hpc
    have hcompletes := exec_pop_completes ha hpc
    rw [popIncrements_of_ne hra] at hunderflow hcompletes
    refine ⟨hunderflow, fun h => ?_⟩
    obtain ⟨t, hexec, hnext, hread, hframe⟩ := hcompletes h
    exact ⟨t, hexec, hnext, hread hra, hframe⟩
  · have hunderflow := exec_pop_underflows ha hpc
    have hcompletes := exec_pop_completes ha hpc
    rw [popIncrements_spIndex] at hunderflow hcompletes
    refine ⟨hunderflow, fun h => ?_⟩
    obtain ⟨t, hexec, hnext, -, hsp, hregs, hframe⟩ := hcompletes h
    exact ⟨t, hexec, hnext, hsp, fun r hr => hregs r (by simpa using hr), hframe⟩

/-- Settles O42: POP finds at the SP that PUSH left the byte PUSH stored there, and each frames the other registers. -/
theorem popAfterPushRestoresRegisters : Obligations.PopAfterPushRestoresRegisters := by
  intro a ra s ha hra hpc hsp
  obtain ⟨t, hpush, htpc, htsp, -, hstored, -, htregs, -, -, htstatus⟩ :=
    exec_push_completes ha (by omega) hsp
  have hidx : t.spIndex = s.spIndex := htstatus.spIndex_eq
  rw [← hidx] at hra htregs
  have hbase : popIncrements ra t = t.sp := popIncrements_of_ne hra
  obtain ⟨u, hpop, hupc, huread, husp, huregs, -, -, -, hustatus⟩ :=
    exec_pop_completes (s := t) ha (by omega) (by rw [hbase]; omega)
  have hsame : u.sp = s.sp := BitVec.eq_of_toNat_eq (by rw [husp, hbase]; omega)
  have htop : t.sp = u8 (s.sp.toNat - 1) := BitVec.eq_of_toNat_eq (by rw [htsp, decremented_toNat])
  refine ⟨t, u, hpush, hpop, fun r _ => ?_, hsame, by omega⟩
  by_cases hr : r = ra
  · rw [hr, huread hra, htop, hstored (hidx ▸ hra)]
  · by_cases hrsp : r = t.spIndex
    · rwa [State.sp, State.sp, hustatus.spIndex_eq, ← hidx, ← hrsp] at hsame
    · rw [huregs r (by simp [hr, hrsp]), htregs r (by simpa using hrsp)]

end Sys2Proof.Machine

/-! SUPPORT. JMP, JEQ and JNE as one shape, of which JMP is the one always taken; CALL and RET, the pc and the SP they leave, and the two in sequence. -/

namespace Sys2Proof.Machine

/-! ### The three jumps (R81 to R83) -/

/-- The frame of a jump: at most the pc differs (R81 to R83). -/
def OnlyPcChanges (s t : State) : Prop :=
  SameRegsBut [] s t ∧ t.fl = s.fl ∧ SameMem s t ∧ t.output = s.output ∧ SameStatus s t

theorem onlyPcChanges_jumpTo (s : State) (target : Byte) : OnlyPcChanges s (s.jumpTo target) :=
  ⟨fun _ _ => rfl, rfl, fun _ => rfl, rfl, rfl, rfl, rfl, rfl, rfl, rfl⟩

theorem onlyPcChanges_fallThrough (s : State) (n : Nat) : OnlyPcChanges s (s.fallThrough n) :=
  ⟨fun _ _ => rfl, rfl, fun _ => rfl, rfl, rfl, rfl, rfl, rfl, rfl, rfl⟩

/-- JMP is the branch that is always taken, and so never needs its successor (R63, R81). -/
theorem exec_jmp (a : Byte) (s : State) : exec (.jmp a) s = execBranch (.jmp a) a true s := rfl

theorem exec_jeq (a : Byte) (s : State) : exec (.jeq a) s = execBranch (.jeq a) a (eqf s.fl) s := rfl

theorem exec_jne (a : Byte) (s : State) : exec (.jne a) s = execBranch (.jne a) a (!eqf s.fl) s := rfl

theorem eqf_of_odd {fl : Byte} (h : fl.toNat % 2 = 1) : eqf fl = true := by
  rw [eqf_eq_decide_odd, decide_eq_true h]

theorem eqf_of_even {fl : Byte} (h : fl.toNat % 2 = 0) : eqf fl = false := by
  rw [eqf_eq_decide_odd, decide_eq_false (by omega)]

section

variable {i : Instr} {a : Byte} (hlen : i.length = 2) (s : State)
include hlen

/-- A taken branch may end at 0xFF, and sets the pc to its register (R63, R65). -/
theorem execBranch_taken_completes {ra : RegIdx} (ha : a.toNat = ra.val) (hpc : s.pc.toNat ≤ 254) :
    ∃ t, execBranch i a true s = .next t ∧ t.pc = s.readReg ra ∧ OnlyPcChanges s t :=
  ⟨_, execBranch_taken ha (by omega), rfl, onlyPcChanges_jumpTo s _⟩

/-- A branch that is not taken falls through by the exact sum (R65). -/
theorem execBranch_notTaken_completes (ha : a.toNat ≤ 7) (hpc : s.pc.toNat ≤ 253) :
    ∃ t, execBranch i a false s = .next t ∧ t.pc.toNat = s.pc.toNat + 2 ∧ OnlyPcChanges s t := by
  refine ⟨_, execBranch_notTaken (ra := ⟨a.toNat, by omega⟩) rfl (by omega), ?_, onlyPcChanges_fallThrough s _⟩
  rw [State.fallThrough_pc, hlen, u8_toNat]
  omega

/-- A branch: checks 2 and 3 in either case, check 4 only when it is not taken, and its two completions (R61 to R65, R87). -/
theorem exec_branch_cases {taken : Bool} (hops : i.registerOperands = [a])
    (hbranch : exec i s = execBranch i a taken s) (hn : needsSuccessor i s.fl = !taken) :
    (s.pc.toNat = 255 → exec i s = .next (s.faultedWith 2 i.opcode 2)) ∧
    (s.pc.toNat ≤ 254 → a.toNat > 7 → exec i s = .next (s.faultedWith 3 i.opcode a)) ∧
    (s.pc.toNat = 254 → a.toNat ≤ 7 → taken = false → exec i s = .next (s.faultedWith 4 i.opcode 2)) ∧
    (∀ ra : RegIdx, a.toNat = ra.val → s.pc.toNat ≤ 254 → taken = true →
      ∃ t, exec i s = .next t ∧ t.pc = s.readReg ra ∧ OnlyPcChanges s t) ∧
    (a.toNat ≤ 7 → s.pc.toNat ≤ 253 → taken = false →
      ∃ t, exec i s = .next t ∧ t.pc.toNat = s.pc.toNat + 2 ∧ OnlyPcChanges s t) := by
  refine ⟨fun hpc => exec_overrun_of_length hlen s (by omega),
    fun hpc ha => exec_badRegister_first hlen s hops (by omega) ha, fun hpc ha htaken => ?_,
    fun ra ha hpc htaken => ?_, fun ha hpc htaken => ?_⟩
  · exact exec_pcOverflow hlen s (by rw [hn, htaken]; rfl) (by omega) (isRegister_of_singleOperand hops ha)
  · rw [hbranch, htaken]
    exact execBranch_taken_completes hlen s ha hpc
  · rw [hbranch, htaken]
    exact execBranch_notTaken_completes hlen s ha hpc

end

/-! ### CALL (R79) -/

theorem stackFault_call (a : Byte) (s : State) :
    stackFault (.call a) s = if s.sp.toNat = 0 then some (5, 0) else none := rfl

/-- CALL reads its target after SP is decremented (R79, D18). -/
theorem effect_pc_call (a : Byte) (s : State) :
    (effect (.call a) s).pc = if regOf a = s.spIndex then u8 (s.sp.toNat - 1) else s.readReg (regOf a) :=
  s.readReg_writeSp (regOf a) _

/-- No instruction's effect writes a byte other than the one below the old SP (R32). -/
theorem effect_sameMemBut (i : Instr) (s : State) : SameMemBut (u8 (s.sp.toNat - 1)) s (effect i s) := by
  intro adr hadr
  by_contra hne
  obtain ⟨-, hbelow⟩ := effect_load_ne hne
  exact hadr hbelow

/-- A completed CALL: the new SP, the return address below the old one, the target (D18 for SP itself), and the frame (R79). -/
theorem exec_call_completes {a : Byte} {ra : RegIdx} {s : State} (ha : a.toNat = ra.val) (hpc : s.pc.toNat ≤ 253)
    (hsp : s.sp.toNat > 0) :
    ∃ t, exec (.call a) s = .next t ∧ t.sp.toNat = s.sp.toNat - 1 ∧
      (t.load (u8 (s.sp.toNat - 1))).toNat = s.pc.toNat + 2 ∧ SameMemBut (u8 (s.sp.toNat - 1)) s t ∧
      (ra ≠ s.spIndex → t.pc = s.readReg ra) ∧ (ra = s.spIndex → t.pc.toNat = s.sp.toNat - 1) ∧
      SameRegsBut [s.spIndex] s t ∧ t.fl = s.fl ∧ t.output = s.output ∧ SameStatus s t := by
  have hregs : ∀ b ∈ (Instr.call a).registerOperands, isRegister b = true :=
    isRegister_of_singleOperand rfl (by omega)
  have hexec : exec (.call a) s = .next (effect (.call a) s) :=
    exec_completes (by simpa using hpc) hregs (by rw [stackFault_call, if_neg (by omega)])
  have htarget := effect_pc_call a s
  rw [regOf_eq ha] at htarget
  refine ⟨_, hexec, ?_, ?_, effect_sameMemBut _ s, fun hra => ?_, fun hra => ?_, effect_sameRegsBut_written s hregs,
    effect_fl (by simp) s, effect_output (by simp) s, effect_sameStatus (by simp) s⟩
  · rw [effect_sp_call, decremented_toNat]
  · rw [effect_load_call, u8_toNat]; omega
  · rw [htarget, if_neg hra]
  · rw [htarget, if_pos hra, decremented_toNat]

/-! ### RET (R80) -/

/-- RET is one byte long, names no register and needs no successor, so its handler's check is its only one (R61 to R63, R80). -/
theorem instrFault_ret (s : State) : instrFault .ret s = if s.sp.toNat = 255 then some (6, 255) else none := by
  have hpc := s.pc.isLt
  rw [instrFault_eq, if_neg (by rw [Instr.length_ret]; omega)]
  rfl

/-- A completed RET: the pc from the byte at the old SP, the new SP, and the frame (R80). -/
theorem exec_ret_completes {s : State} (hsp : s.sp.toNat < 255) :
    ∃ t, exec .ret s = .next t ∧ t.pc = s.load s.sp ∧ t.sp.toNat = s.sp.toNat + 1 ∧
      SameRegsBut [s.spIndex] s t ∧ t.fl = s.fl ∧ SameMem s t ∧ t.output = s.output ∧ SameStatus s t := by
  have hnoFault : instrFault .ret s = none := by rw [instrFault_ret, if_neg (by omega)]
  have hnewSp : (effect .ret s).sp = u8 (s.sp.toNat + 1) := s.sp_writeSp _
  refine ⟨effect .ret s, ?_, rfl, ?_, effect_sameRegsBut_written (i := .ret) s (by simp [Instr.registerOperands]), rfl,
    fun _ => rfl, rfl, effect_sameStatus (by simp) s⟩
  · rw [exec_eq, outcome_of_noFault hnoFault]
  · rw [hnewSp, u8_toNat]; omega

/-! ### The statements of this family -/

/-- Settles O21: the checks of CALL in their order, its own check of SP, then its effect. -/
theorem callPushesReturnAddress : Obligations.CallPushesReturnAddress := by
  intro a s
  obtain ⟨hoverrun, hbad, hoverflow⟩ := exec_oneRegister_faults (Instr.length_call a) rfl s rfl
  refine ⟨rfl, hoverrun, hbad, hoverflow, fun hpc ha hsp => ?_, fun _ => exec_call_completes⟩
  exact exec_stackFault (by simpa using hpc) (isRegister_of_singleOperand rfl ha)
    (by rw [stackFault_call, if_pos hsp])

/-- Settles O22: RET's one check, on either side. -/
theorem retPopsTheReturnAddress : Obligations.RetPopsTheReturnAddress := by
  refine fun s => ⟨rfl, fun hsp => ?_, exec_ret_completes⟩
  have hfault : instrFault .ret s = some (6, 255) := by rw [instrFault_ret, if_pos hsp]
  rw [exec_eq, outcome_of_fault hfault]
  rfl

/-- Settles O23: the branch that is always taken. -/
theorem jmpSetsPc : Obligations.JmpSetsPc := by
  intro a s
  obtain ⟨hoverrun, hbad, -, htaken, -⟩ := exec_branch_cases (Instr.length_jmp a) s rfl (exec_jmp a s) rfl
  exact ⟨rfl, hoverrun, hbad, fun ra ha hpc => htaken ra ha hpc rfl⟩

/-- Settles O24: the branch that is taken when EQF is 1, which is the parity of FL. -/
theorem jeqJumpsWhenEqual : Obligations.JeqJumpsWhenEqual := by
  intro a s
  obtain ⟨hoverrun, hbad, hoverflow, htaken, hnotTaken⟩ :=
    exec_branch_cases (Instr.length_jeq a) s rfl (exec_jeq a s) (needsSuccessor_jeq a s.fl)
  exact ⟨rfl, hoverrun, hbad, fun hpc ha hfl => hoverflow hpc ha (eqf_of_even hfl),
    fun ra ha hpc hfl => htaken ra ha hpc (eqf_of_odd hfl), fun ha hpc hfl => hnotTaken ha hpc (eqf_of_even hfl)⟩

/-- Settles O25: the branch that is taken when EQF is 0. -/
theorem jneJumpsWhenNotEqual : Obligations.JneJumpsWhenNotEqual := by
  intro a s
  have hneeds : needsSuccessor (.jne a) s.fl = !!eqf s.fl := by rw [needsSuccessor_jne, Bool.not_not]
  obtain ⟨hoverrun, hbad, hoverflow, htaken, hnotTaken⟩ :=
    exec_branch_cases (Instr.length_jne a) s rfl (exec_jne a s) hneeds
  have hodd (hfl : s.fl.toNat % 2 = 1) : (!eqf s.fl) = false := by rw [eqf_of_odd hfl]; rfl
  have heven (hfl : s.fl.toNat % 2 = 0) : (!eqf s.fl) = true := by rw [eqf_of_even hfl]; rfl
  exact ⟨rfl, hoverrun, hbad, fun hpc ha hfl => hoverflow hpc ha (hodd hfl),
    fun ra ha hpc hfl => htaken ra ha hpc (heven hfl), fun ha hpc hfl => hnotTaken ha hpc (hodd hfl)⟩

/-- Settles O43: RET reads, at the SP that CALL left, the return address CALL stored there, and undoes the decrement. -/
theorem retAfterCallReturns : Obligations.RetAfterCallReturns := by
  intro a s ha hpc hsp
  obtain ⟨t, hcall, htsp, hstored, -⟩ :=
    exec_call_completes (ra := ⟨a.toNat, by omega⟩) rfl hpc hsp
  have htop : t.sp = u8 (s.sp.toNat - 1) := BitVec.eq_of_toNat_eq (by rw [htsp, decremented_toNat])
  refine ⟨t, hcall, fun u husp htopByte => ?_⟩
  have hroom : u.sp.toNat < 255 := by
    have := s.sp.isLt
    rw [husp, htsp]; omega
  obtain ⟨v, hret, hvpc, hvsp, -⟩ := exec_ret_completes hroom
  refine ⟨v, hret, ?_, BitVec.eq_of_toNat_eq ?_⟩
  · rw [hvpc, htopByte, htop, hstored]
  · rw [hvsp, husp, htsp]; omega

end Sys2Proof.Machine

/-! SUPPORT. Exceptions: a step's first fault in R87's order is the one it enters, and every step answers a next state. -/

namespace Sys2Proof.Machine

/-- A step of a RUNNING machine that raises no fault does not enter FAULTED and keeps the fault record (R27, R86). -/
theorem step_of_stepFault_none {s : State} (hr : s.runState = .running) (hf : stepFault s = none) :
    ∃ t, step s = .next t ∧ t.runState ≠ .faulted ∧ SameRecord s t := by
  rcases step_cases s with ⟨hstopped, -⟩ | ⟨-, c, f, hfault, -⟩ | ⟨-, i, -, -, hs⟩
  · exact absurd hr hstopped
  · rw [hf] at hfault; cases hfault
  · exact ⟨effect i s, hs, effect_not_faulted i (by simp [hr]), effect_sameRecord i s⟩

/-! ### The statements of this family -/

/-- Settles O7: the fault the priority order finds is the one the step enters; where it finds none, the step is the
effect of the fetched instruction. -/
theorem stepRaisesFirstFaultInPriorityOrder : Obligations.StepRaisesFirstFaultInPriorityOrder :=
  fun _ hr => ⟨fun _ _ hf => step_of_fault hr hf, step_of_stepFault_none hr⟩

/-- Settles O9: a stopped machine, a fault entry and an effect are each a next state (R33, R56, R86). -/
theorem everyStepHasANextState : Obligations.EveryStepHasANextState := step_total

end Sys2Proof.Machine

/-! SUPPORT. A run of `n + k` steps as a run of `k` steps after one of `n`, and a JMP to its own address, whose step
leaves the state. -/

namespace Sys2Proof.Machine

/-! ### Runs in two parts, and runs that stand still -/

/-- A run of `n + k` steps goes on for `k` steps from where `n` steps led. -/
theorem run_add {n : Nat} {s t : State} (h : Host.Core.run core n s = .next t) (k : Nat) :
    Host.Core.run core (n + k) s = Host.Core.run core k t := by
  induction n generalizing s with
  | zero =>
    obtain rfl : s = t := Host.Outcome.next.inj h
    rw [Nat.zero_add]
  | succ n ih =>
    obtain ⟨u, hu⟩ := step_total s
    rw [run_succ hu] at h
    rw [Nat.succ_add, run_succ hu, ih h]

/-- A state whose step is the state itself is where every run from it ends. -/
theorem run_of_step_self {s : State} (h : step s = .next s) (n : Nat) : Host.Core.run core n s = .next s := by
  induction n with
  | zero => rfl
  | succ n ih => rw [run_succ h, ih]

/-! ### A JMP at the pc (R45, R59, R81) -/

/-- The opcode byte 0x50 at the pc makes the fetched instruction JMP with the byte after it (R45, R52, R59). -/
theorem State.fetched_jmp {s : State} (h : s.load s.pc = 0x50) : s.fetched = .ok (.jmp (s.fetchByte 1)) := by
  rw [State.fetched, s.fetchByte_zero, h]
  rfl

/-- JMP through a register that holds the pc leaves the whole state (R81, R103). -/
theorem exec_jmp_self {a : Byte} {ra : RegIdx} {s : State} (ha : a.toNat = ra.val) (hpc : s.pc.toNat ≤ 254)
    (hself : s.readReg ra = s.pc) : exec (.jmp a) s = .next s := by
  have hinside : s.pc.toNat + (Instr.jmp a).length ≤ 256 := by rw [Instr.length_jmp]; omega
  rw [exec_jmp, execBranch_taken ha hinside, hself]
  rfl

/-! ### The statements of this family -/

/-- Settles O44: the step runs the JMP that stands at the pc, which leaves the state, so that the run stands still. -/
theorem jmpToItselfNeverEnds : Obligations.JmpToItselfNeverEnds := by
  intro s ra n hr hpc hop ha hself
  have hstep : step s = .next s := by
    rw [step_of_fetched hr (State.fetched_jmp hop)]
    exact exec_jmp_self ha hpc hself
  exact run_of_step_self hstep n

/-- Settles O47: the longer run goes on from a stopped state, which no step leaves (R56). -/
theorem runHasOneEnd : Obligations.RunHasOneEnd := by
  intro n k s t hn ht
  rw [run_add hn, run_stopped ht]

end Sys2Proof.Machine
